-- ==== Sys2Proof/Word.lean ====
section
/-!
DEFINITION. The word types of the host port and of the framebuffer, and integer pixel points.
-/

namespace Sys2Proof

/-- A register of the block: 32 bits (10_state.md R10, R13 to R19). What a host access carries of it is the host data
width of the configuration (log 22). -/
abbrev Word := BitVec 32

/-- A framebuffer byte or a byte on the serial bus. -/
abbrev Byte := BitVec 8

/-- The word index of a host access. The host port carries an 11-bit byte offset whose two low bits are
always 0 (20_memory.md R26), so the nine bits above them name the access; a misaligned or narrower access
cannot be written down (R35). The address lines that carry it are the host address width of the configuration
(log 22). -/
abbrev WordIndex := BitVec 9

/-- The byte offset of a host access (20_memory.md R26). -/
def WordIndex.offset (k : WordIndex) : BitVec 11 := k ++ 0#2

/-- An integer pixel point (42_pixel_line.md R73; arithmetic on mathematical integers, 00_scope.md R7). -/
structure Point where
  x : Int
  y : Int
  deriving DecidableEq, Repr

end Sys2Proof
end

