-- ==== Sys2Proof/Syntax.lean ====
section
/-!
DEFINITION. The nine host commands of 30_encoding.md R46, one constructor for each row of spec/opcode_table.json.
A command word carries no operand bits (R47): the operands are the latched argument registers (R49), so no
constructor has a field.
-/

namespace Sys2Proof

/-- A host command (30_encoding.md R46). -/
inductive Instr where
  /-- 0x01, `initialize(width, height, external_power)` (40_init.md R61). -/
  | init
  /-- 0x02, `clear()` (41_clear_flush.md R65). -/
  | clear
  /-- 0x03, `flush()` (41_clear_flush.md R68). -/
  | flush
  /-- 0x04, `set_pixel(x, y, value)` (42_pixel_line.md R71). -/
  | setPixel
  /-- 0x05, `draw_line(x0, y0, x1, y1, value)` (42_pixel_line.md R76). -/
  | drawLine
  /-- 0x06, `contrast(level)` (43_passthrough.md R79). -/
  | contrast
  /-- 0x07, `invert(flag)` (43_passthrough.md R80). -/
  | invert
  /-- 0x08, `power_on()` (43_passthrough.md R81). -/
  | powerOn
  /-- 0x09, `power_off()` (43_passthrough.md R82). -/
  | powerOff
  deriving DecidableEq, Repr

end Sys2Proof
end

