-- ==== Sys2Proof/WellFormed.lean ====
section
/-!
DEFINITION. Which command words and opcodes the block takes as commands (30_encoding.md R46 to R48).
A command has no operand bits, so every term of `Instr` is well formed; what can be ill formed is the 32-bit value
the host writes to CMD. The host statements of R57 have their own check, `Pseudo.wf` in Machine/Assembler.lean.
-/

namespace Sys2Proof

/-- The opcode is one of the nine rows of 30_encoding.md R46: not 0x00 and not 0x0A to 0xFF (R48). -/
def opcodeLegal (op : Byte) : Bool := decide (1 ≤ op.toNat) && decide (op.toNat ≤ 9)

/-- The reserved bits CMD[31:8] are 0 (30_encoding.md R47). -/
def reservedZero (v : Word) : Bool := v.extractLsb' 8 24 == 0#24

/-- A CMD value that is a command, not ILLEGAL (30_encoding.md R47, R48). -/
def cmdWordLegal (v : Word) : Bool := reservedZero v && opcodeLegal (v.extractLsb' 0 8)

end Sys2Proof
end

