-- ==== Sys2Proof/Decode.lean ====
section
/-!
DEFINITION. The decoder of CMD values, total on all 32-bit words (30_encoding.md R46 to R48, R58), and the encoder.
-/

namespace Sys2Proof

/-- Why a CMD value is ILLEGAL (30_encoding.md R48). -/
inductive IllegalCmd where
  /-- CMD[31:8] is not 0. -/
  | reservedBits
  /-- CMD[31:8] is 0 and the opcode, given here, is 0x00 or 0x0A to 0xFF. -/
  | opcode (op : Byte)
  deriving DecidableEq, Repr

/-- One row of the opcode map (30_encoding.md R46): the value the command word must have under the mask. -/
structure OpcodeRow where
  mask : Word
  value : Word
  instr : Instr
  deriving DecidableEq, Repr

/-- The opcode map (30_encoding.md R46); the mask of every row is 0xFFFFFFFF (R47). -/
def opcodeMap : List OpcodeRow :=
  [ ⟨0xFFFFFFFF#32, 0x00000001#32, .init⟩,
    ⟨0xFFFFFFFF#32, 0x00000002#32, .clear⟩,
    ⟨0xFFFFFFFF#32, 0x00000003#32, .flush⟩,
    ⟨0xFFFFFFFF#32, 0x00000004#32, .setPixel⟩,
    ⟨0xFFFFFFFF#32, 0x00000005#32, .drawLine⟩,
    ⟨0xFFFFFFFF#32, 0x00000006#32, .contrast⟩,
    ⟨0xFFFFFFFF#32, 0x00000007#32, .invert⟩,
    ⟨0xFFFFFFFF#32, 0x00000008#32, .powerOn⟩,
    ⟨0xFFFFFFFF#32, 0x00000009#32, .powerOff⟩ ]

/-- The CMD value matches the row. -/
def OpcodeRow.hit (r : OpcodeRow) (v : Word) : Bool := v &&& r.mask == r.value

/-- The name under which a word that is no command is refused (30_encoding.md R48). -/
def illegalReason (v : Word) : IllegalCmd :=
  if reservedZero v then .opcode (v.extractLsb' 0 8) else .reservedBits

/-- A decoder maps any 32-bit CMD value to one of the nine commands or to ILLEGAL (30_encoding.md R58). -/
def decode (v : Word) : Except IllegalCmd Instr :=
  match opcodeMap.find? (·.hit v) with
  | some r => .ok r.instr
  | none => .error (illegalReason v)

/-- What the engine decodes after acceptance: the latched opcode LCMD and the record of whether CMD[31:8] was 0
(10_state.md R23, 60_exceptions.md R88). -/
def decodeLatched (high0 : Bool) (op : Byte) : Except IllegalCmd Instr :=
  if high0 then decode (op.setWidth 32) else .error .reservedBits

/-- The OPCODE field of a command (30_encoding.md R46). -/
def Instr.opcode : Instr → Byte
  | .init => 0x01#8
  | .clear => 0x02#8
  | .flush => 0x03#8
  | .setPixel => 0x04#8
  | .drawLine => 0x05#8
  | .contrast => 0x06#8
  | .invert => 0x07#8
  | .powerOn => 0x08#8
  | .powerOff => 0x09#8

/-- The CMD value of a command: `zext_32(op)` (30_encoding.md R47). -/
def encode (i : Instr) : Word := i.opcode.setWidth 32

/-- Every term of `Instr` is a well-formed command: it has no operand that could be out of range, and its word is
legal (30_encoding.md R47). -/
def Instr.wf (i : Instr) : Bool := cmdWordLegal (encode i)

/-- The command word of a table row of `nbits` bits whose bits are `w` (bits above `nbits` are 0). A command is one
32-bit word, with no byte order: the host accesses whole words only (20_memory.md R34 (5)). -/
def tableWord (nbits w : Nat) : Word := BitVec.ofNat 32 (w % 2 ^ nbits)

/-- The instruction the decoder reads from a word numbered as spec/opcode_table.json numbers it. -/
def decodeTableWord (nbits w : Nat) : Option Instr :=
  match decode (tableWord nbits w) with
  | .ok i => some i
  | .error _ => none

end Sys2Proof
end

