-- ==== Sys2Proof/Config.lean ====
section
/-!
DEFINITION. The implementation parameters of 00_scope.md R5 as plain data, the controller byte table CTRL of
30_encoding.md R52, and the uninterpreted constants the spec leaves open.
The values of "this hardware" are in Sys2Proof/Machine/Parameters.lean.
-/

namespace Sys2Proof

/-- The configuration table CTRL of controller command bytes (30_encoding.md R52). A field for each byte the
table holds that the source does not fix; the parameter bytes the source fixes (`H - 1`, display offset 0, the
window bounds) are not in it. -/
structure Ctrl where
  /-- DISP_OFF, "display off". -/
  dispOff : Byte
  /-- MEM_ADDR, first byte: "set addressing mode". -/
  memAddr : Byte
  /-- MEM_ADDR, second byte: "to horizontal". -/
  memHorizontal : Byte
  /-- START_LINE, "set start line". -/
  startLine : Byte
  /-- SEG_REMAP, "set segment remap so column 127 maps to segment 0". -/
  segRemap : Byte
  /-- MUX_RATIO, first byte: "set multiplex ratio". -/
  muxRatio : Byte
  /-- COM_SCAN_REV, "set COM output scan direction reversed". -/
  comScanRev : Byte
  /-- DISP_OFFSET, first byte: "set display offset". -/
  dispOffset : Byte
  /-- COM_PIN_CFG, first byte: "set COM pin configuration". -/
  comPinCfg : Byte
  /-- COMPIN when `W > 2*H` (R54). -/
  comPinWide : Byte
  /-- COMPIN otherwise (R54). -/
  comPinTall : Byte
  /-- CLK_DIV, first byte: "set clock divider". -/
  clkDiv : Byte
  /-- CLK_DIV, second byte. -/
  clkDivValue : Byte
  /-- PRECHARGE, first byte: "set pre-charge timing". -/
  precharge : Byte
  /-- PRE when EXT = 1 (R55). -/
  prechargeExt : Byte
  /-- PRE when EXT = 0 (R55). -/
  prechargeInt : Byte
  /-- VCOM_DESEL, first byte: "set VCOM deselect level". -/
  vcomDesel : Byte
  /-- VCOM_DESEL, second byte. -/
  vcomValue : Byte
  /-- CONTRAST_MAX, first byte. -/
  contrastMax : Byte
  /-- CONTRAST_MAX, second byte: "set contrast to maximum". -/
  contrastMaxLevel : Byte
  /-- ENTIRE_ON_RAM, "set 'entire display on' to follow RAM". -/
  entireOnRam : Byte
  /-- NORMAL, "set normal (non-inverted) display". -/
  normal : Byte
  /-- CHARGE_PUMP, first byte: "set charge pump enable". -/
  chargePump : Byte
  /-- CP when EXT = 1 (R55). -/
  chargePumpExt : Byte
  /-- CP when EXT = 0 (R55). -/
  chargePumpInt : Byte
  /-- DISP_ON, "display on". -/
  dispOn : Byte
  /-- COL_ADDR, first byte: the column address window. -/
  colAddr : Byte
  /-- PAGE_ADDR, first byte: the page address window. -/
  pageAddr : Byte
  /-- SET_CONTRAST, first byte (R79). -/
  setContrast : Byte
  /-- NORM_INV, the byte FLAG is put into (R80). -/
  normInv : Byte
  deriving DecidableEq, Repr

/-- Which line algorithm the hardware has: LINE_ALG is an OPEN parameter (42_pixel_line.md R72, R73; log 5).
`reference` is the reference rasterizer of R74; `other n` is the `n`-th algorithm of which nothing is known but
the properties (a), (b), (c) of R73. -/
inductive LineAlg where
  | reference
  | other (n : Nat)
  deriving DecidableEq, Repr

/-- The implementation parameters of 00_scope.md R5. FB_CAP, which R5 derives from two others, is `Config.fbCap`. -/
structure Config where
  /-- MAX_W: largest framebuffer width accepted by INIT. -/
  maxW : Nat
  /-- MAX_H: largest framebuffer height accepted by INIT. -/
  maxH : Nat
  /-- DEV_ADDR: 7-bit device address on the serial bus. -/
  devAddr : BitVec 7
  /-- CMD_MARKER: the "command mode" marker byte before each command byte. -/
  cmdMarker : Byte
  /-- DATA_MARKER: the "data mode" marker byte before a data block. -/
  dataMarker : Byte
  /-- CTRL: the table of controller command byte values. -/
  ctrl : Ctrl
  /-- LINE_ALG: the line rasterizer's pixel sequence function. -/
  lineAlg : LineAlg
  /-- COORD_BITS: width of a signed pixel coordinate operand (log 22). -/
  coordBits : Nat
  /-- Host data width: width of a host register access, in bits (log 22). -/
  hostDataBits : Nat
  /-- Host address width: width of the byte offset within the block's host window, in bits (log 22). -/
  hostAddrBits : Nat
  deriving DecidableEq, Repr

/-- BLOCK_BASE: where the platform places the block in the host's address map, OPEN (20_memory.md R27,
93_implementation_defined.md U15; log 18). Uninterpreted. -/
opaque Config.blockBase : Nat

/-- The framebuffer byte `i` after the `n`-th reset, as long as no command has written it: unspecified
(10_state.md R24, 93_implementation_defined.md U1 "any value"; log 4). Uninterpreted. -/
opaque Config.freeFbByte : Nat → Nat → Byte

/-- The pixel sequence of the `n`-th line algorithm from one end point to another, before the check of
42_pixel_line.md R73 (93_implementation_defined.md U12 "parameter"; log 5). Uninterpreted. -/
opaque Config.openLine : Nat → Point → Point → List Point

end Sys2Proof
end

