-- ==== Sys2Proof/Machine/Parameters.lean ====
section
/-!
DEFINITION. The parameter values of "this hardware" (00_scope.md R5) and the default CTRL table (30_encoding.md
R52 to R56). The controller and marker bytes are general knowledge, not the source's (log 6).
-/

namespace Sys2Proof

/-- The default CTRL table (30_encoding.md R52, R54, R55). -/
def Ctrl.standard : Ctrl where
  dispOff := 0xAE#8
  memAddr := 0x20#8
  memHorizontal := 0x00#8
  startLine := 0x40#8
  segRemap := 0xA1#8
  muxRatio := 0xA8#8
  comScanRev := 0xC8#8
  dispOffset := 0xD3#8
  comPinCfg := 0xDA#8
  comPinWide := 0x02#8
  comPinTall := 0x12#8
  clkDiv := 0xD5#8
  clkDivValue := 0x80#8
  precharge := 0xD9#8
  prechargeExt := 0x22#8
  prechargeInt := 0xF1#8
  vcomDesel := 0xDB#8
  vcomValue := 0x30#8
  contrastMax := 0x81#8
  contrastMaxLevel := 0xFF#8
  entireOnRam := 0xA4#8
  normal := 0xA6#8
  chargePump := 0x8D#8
  chargePumpExt := 0x10#8
  chargePumpInt := 0x14#8
  dispOn := 0xAF#8
  colAddr := 0x21#8
  pageAddr := 0x22#8
  setContrast := 0x81#8
  normInv := 0xA6#8

/-- The parameters of this hardware (00_scope.md R5). -/
def Config.standard : Config where
  maxW := 128
  maxH := 64
  devAddr := 0x3C#7
  cmdMarker := 0x80#8
  dataMarker := 0x40#8
  ctrl := Ctrl.standard
  lineAlg := .reference
  coordBits := 16
  hostDataBits := 32
  hostAddrBits := 11

/-- FB_CAP, the framebuffer RAM capacity in bytes, `MAX_W * MAX_H / 8` (00_scope.md R5). -/
def Config.fbCap (c : Config) : Nat := c.maxW * c.maxH / 8

/-- The host port has the data and address widths of this hardware (00_scope.md R5). -/
def Config.StandardPort (c : Config) : Prop := c.hostDataBits = 32 ∧ c.hostAddrBits = 11

/-- Where the platform's address map puts a word of the block's host window (20_memory.md R27). -/
def hostAddress (k : WordIndex) : Nat := Config.blockBase + k.offset.toNat

end Sys2Proof
end

