-- ==== Sys2Proof/Machine/State.lean ====
section
/-!
DEFINITION. The block's architectural state (10_state.md R10, R23), the inputs and outputs of its three interfaces
(00_scope.md R4) as plain data, and the state after reset (10_state.md R24).
-/

namespace Sys2Proof.Machine

/-- The transport's answer to a transaction (20_memory.md R36). -/
inductive Answer where
  | ack
  | fail
  deriving DecidableEq, Repr

/-- A transaction on the transport port: device address and payload (30_encoding.md R51). -/
structure Transaction where
  dev : BitVec 7
  payload : List Byte
  deriving DecidableEq, Repr

/-- How a transaction ended: answered ACK, answered FAIL (20_memory.md R36), or abandoned by a reset
(70_reset_and_hazards.md R97). -/
inductive TxResult where
  | ack
  | fail
  | abandoned
  deriving DecidableEq, Repr

/-- A transaction that has ended, and how. -/
structure BusRecord where
  tx : Transaction
  result : TxResult
  deriving DecidableEq, Repr

/-- The engine's actions; a command is a list of them (00_scope.md R8, the command rules of the 4x files). The
empty list stands for `complete()`. -/
inductive Action where
  /-- `for i in 0 .. PAGES*W - 1: FB[i] <- 0x00`. -/
  | zeroFill
  /-- `FbSetBit(x, y, v)`. -/
  | setBit (p : Point) (v : Bool)
  /-- `sendOrFail(SendCmd(b))`. -/
  | sendCmd (b : Byte)
  /-- `sendOrFail(SendData([FB[0], ..., FB[PAGES*W - 1]]))`. -/
  | sendData
  /-- `READY <- 1 ; complete()`, INIT's last action: READY changes at the same time as BUSY returns to 0
  (10_state.md R14). -/
  | ready
  deriving DecidableEq, Repr

/-- One access of the host's program (30_encoding.md R57). -/
inductive HostOp where
  /-- `wr REG, imm32`. -/
  | wr (k : WordIndex) (v : Word)
  /-- `rd REG`. -/
  | rd (k : WordIndex)
  /-- `wait`: repeat `rd STATUS` until bit 0 (BUSY) reads 0. -/
  | wait
  deriving DecidableEq, Repr

/-- One entry of the order in which the agents of 10_state.md R9 move (logs 1, 2, 10). -/
inductive Turn where
  /-- The host presents, or goes on presenting, its next access. -/
  | host
  /-- The engine runs until its command ends or a transaction has no answer yet. -/
  | engine
  /-- The engine does one action. -/
  | micro
  /-- The transport answers the outstanding transaction. -/
  | answer (a : Answer)
  /-- The transport answers a transaction that a reset has abandoned (70_reset_and_hazards.md R97). -/
  | lateAnswer (a : Answer)
  /-- The reset input is asserted and released (70_reset_and_hazards.md R96). -/
  | reset
  deriving DecidableEq, Repr

/-- The framebuffer RAM as written bytes: address and byte, addresses strictly rising. An address that is not listed
holds no value a command has written (10_state.md R24 "unspecified"; logs 4, 16). -/
abbrev Memory := List Host.Cell

/-- The state of the block and of its interfaces. -/
structure State where
  /-- READY (10_state.md R10). -/
  ready : Bool
  /-- W, framebuffer width in pixels (10_state.md R10). -/
  w : BitVec 16
  /-- H, framebuffer height in pixels (10_state.md R10). -/
  h : BitVec 16
  /-- EXT, external-power flag (10_state.md R10). -/
  ext : Bool
  /-- FB, the framebuffer RAM (10_state.md R21). -/
  fb : Memory
  /-- BUSY (10_state.md R10). -/
  busy : Bool
  /-- ERR, the sticky error flag (10_state.md R10). -/
  err : Bool
  /-- ERRCODE (10_state.md R10, 60_exceptions.md R85). -/
  errcode : BitVec 4
  /-- LASTFAIL (10_state.md R10). -/
  lastfail : Bool
  /-- ARG0 (10_state.md R16). -/
  arg0 : Word
  /-- ARG1 (10_state.md R17). -/
  arg1 : Word
  /-- ARG2 (10_state.md R18). -/
  arg2 : Word
  /-- LCMD, the latched opcode (10_state.md R23). -/
  lcmd : Byte
  /-- Whether CMD[31:8] was 0 at acceptance (10_state.md R23). -/
  lcmdHigh0 : Bool
  /-- LARG0 (10_state.md R23). -/
  larg0 : Word
  /-- LARG1 (10_state.md R23). -/
  larg1 : Word
  /-- LARG2 (10_state.md R23). -/
  larg2 : Word
  /-- The engine's progress point: the remaining actions of the command that runs; `none` when no command runs or
  the accepted one has not begun (10_state.md R23). -/
  todo : Option (List Action)
  /-- The transaction that awaits the transport's answer (10_state.md R23, 20_memory.md R40). -/
  pending : Option Transaction
  /-- The access at the head of `hostProg` is held on the host port (70_reset_and_hazards.md R97, R101, R102). -/
  held : Bool
  /-- MODEL'S OWN: the implementation parameters (00_scope.md R5; log 7). No step changes it. -/
  cfg : Config
  /-- MODEL'S OWN: how many resets there have been, the counter the free framebuffer bytes depend on (log 4). -/
  fbEpoch : Nat
  /-- MODEL'S OWN: the transactions that have ended, oldest first (log 9). -/
  bus : List BusRecord
  /-- MODEL'S OWN: the accesses the host is still to make, in program order (log 11). -/
  hostProg : List HostOp
  /-- MODEL'S OWN: the word the last completed host read returned (log 12). -/
  readData : Word
  /-- MODEL'S OWN: which agent moves next (log 1). -/
  turns : List Turn
  deriving DecidableEq, Repr

/-- No step ends in a fault: the block has no trap and no access that raises an error (20_memory.md R28,
60_exceptions.md R84 to R86); its errors are recorded in STATUS and the machine goes on (log 17). -/
inductive Fault where
  deriving DecidableEq, Repr

/-- Why an instruction has no meaning. -/
inductive Refusal where
  /-- Raised by an arm of `exec` whose instruction has no meaning yet; safe (the machine stops). No arm raises it
  now. -/
  | notModelled (mnemonic : String)
  deriving DecidableEq, Repr

/-- The state after reset (10_state.md R24), with the parameters of this hardware and no input. FB is unspecified:
nothing is listed. `lcmdHigh0`, `cfg`, `fbEpoch`, `bus`, `hostProg`, `readData` and `turns` are logs 4, 7, 8, 9,
11, 12, 13. -/
def State.reset : State where
  ready := false
  w := 0#16
  h := 0#16
  ext := false
  fb := []
  busy := false
  err := false
  errcode := 0#4
  lastfail := false
  arg0 := 0#32
  arg1 := 0#32
  arg2 := 0#32
  lcmd := 0#8
  lcmdHigh0 := true
  larg0 := 0#32
  larg1 := 0#32
  larg2 := 0#32
  todo := none
  pending := none
  held := false
  cfg := Config.standard
  fbEpoch := 0
  bus := []
  hostProg := []
  readData := 0#32
  turns := []

end Sys2Proof.Machine
end

