-- ==== Sys2Proof/Machine/Memory.lean ====
section
/-!
DEFINITION. The framebuffer RAM as a list of written bytes in one canonical form: addresses strictly rising
(log 16). An unlisted address has no written value, so no entry can equal what an unlisted address reads as.
-/

namespace Sys2Proof.Machine

/-- The canonical form: addresses strictly rising. -/
abbrev Memory.wf (m : Memory) : Prop := m.Pairwise (fun c d => c.1 < d.1)

/-- The byte written at address `k`, `none` where nothing has been written since reset. -/
def Memory.read? : Memory → Nat → Option Byte
  | [], _ => none
  | (a, b) :: m, k => if a = k then some b else Memory.read? m k

/-- Write the byte `v` at address `k`. -/
def Memory.write : Memory → Nat → Byte → Memory
  | [], k, v => [(k, v)]
  | (a, b) :: m, k, v =>
    if k < a then (k, v) :: (a, b) :: m
    else if k = a then (k, v) :: m
    else (a, b) :: Memory.write m k v

/-- Write the byte `v` at the addresses `0 .. n - 1`. -/
def Memory.fill (m : Memory) (n : Nat) (v : Byte) : Memory :=
  (List.range n).map (fun i => (i, v)) ++ m.filter (fun c => decide (n ≤ c.1))

end Sys2Proof.Machine
end

