-- ==== Sys2Proof/Machine/Ops.lean ====
section
/-!
DEFINITION. The named operations over the framebuffer, the registers and the transport port: the pixel primitive
(20_memory.md R33), error entry and completion (60_exceptions.md R86, R87), error clearing (10_state.md R15), command
acceptance (10_state.md R23), the transaction primitive (20_memory.md R36) and reset (70_reset_and_hazards.md R96, R97).
-/

namespace Sys2Proof.Machine

/-! ## Geometry and framebuffer -/

/-- The geometry INIT accepts (40_init.md R60). -/
def geometryLegal (c : Config) (w h : Nat) : Bool :=
  decide (1 ≤ w) && decide (w ≤ c.maxW) && decide (8 ≤ h) && decide (h ≤ c.maxH) && decide (h % 8 = 0)

/-- PAGES, not stored: `H div 8` (10_state.md R22). -/
def State.pages (s : State) : Nat := s.h.toNat / 8

/-- The length of the framebuffer in bytes, `PAGES * W` (10_state.md R21). -/
def State.frameBytes (s : State) : Nat := s.pages * s.w.toNat

/-- The framebuffer byte that holds pixel `(x, y)` of a framebuffer of width `w` (20_memory.md R30). -/
def pixIndex (w x y : Nat) : Nat := y / 8 * w + x

/-- The pixel is in range (20_memory.md R31), on mathematical integers. -/
def State.inRange (s : State) (p : Point) : Bool :=
  decide (0 ≤ p.x) && decide (p.x < (s.w.toNat : Int)) && decide (0 ≤ p.y) && decide (p.y < (s.h.toNat : Int))

/-- `FB[i]`. A byte that no command has written since reset is a free value (10_state.md R24; log 4). -/
def State.fbRead (s : State) (i : Nat) : Byte :=
  match s.fb.read? i with
  | some b => b
  | none => Config.freeFbByte s.fbEpoch i

/-- `FB[i] <- v`. -/
def State.fbWrite (s : State) (i : Nat) (v : Byte) : State := { s with fb := s.fb.write i v }

/-- One bit of a framebuffer byte set or cleared: `OR (1 << b)` or `AND NOT (1 << b)` (20_memory.md R33). -/
def putBit (old : Byte) (b : Nat) (v : Bool) : Byte :=
  if v then old ||| (1#8 <<< b) else old &&& ~~~(1#8 <<< b)

/-- `FbSetBit(x, y, v)`, the pixel primitive (20_memory.md R33). -/
def State.fbSetBit (s : State) (p : Point) (v : Bool) : State :=
  if s.inRange p then
    let i := pixIndex s.w.toNat p.x.toNat p.y.toNat
    s.fbWrite i (putBit (s.fbRead i) (p.y.toNat % 8) v)
  else s

/-- Pixel `(x, y)` as the framebuffer holds it: bit `y mod 8` of its byte (20_memory.md R30). -/
def State.pixel (s : State) (x y : Nat) : Bool := (s.fbRead (pixIndex s.w.toNat x y)).getLsbD (y % 8)

/-- `for i in 0 .. PAGES*W - 1: FB[i] <- 0x00` (40_init.md R61, 41_clear_flush.md R65). -/
def State.zeroFill (s : State) : State := { s with fb := s.fb.fill s.frameBytes 0x00#8 }

/-- The framebuffer in increasing byte index order, `FB[0], ..., FB[PAGES*W - 1]` (20_memory.md R34 (2),
41_clear_flush.md R68). -/
def State.frame (s : State) : List Byte := (List.range s.frameBytes).map s.fbRead

/-- `W <- w ; H <- h ; EXT <- e` (40_init.md R61). -/
def State.setGeometry (s : State) (w h : BitVec 16) (e : Bool) : State := { s with w := w, h := h, ext := e }

/-! ## Errors: entry, completion, clearing -/

/-- The errors a command can end with (60_exceptions.md R85). -/
inductive ErrCode where
  | transport
  | illegal
  | notReady
  | alreadyReady
  | badGeometry
  deriving DecidableEq, Repr

/-- The code STATUS.ERRCODE holds (60_exceptions.md R85). -/
def ErrCode.code : ErrCode → BitVec 4
  | .transport => 1#4
  | .illegal => 2#4
  | .notReady => 3#4
  | .alreadyReady => 4#4
  | .badGeometry => 5#4

/-- Error entry, `raise Err(c)` (60_exceptions.md R86): the command ends, nothing is rolled back. -/
def State.raise (s : State) (c : ErrCode) : State :=
  { s with err := true, errcode := c.code, lastfail := true, busy := false, todo := none, pending := none }

/-- Successful completion, `complete()` (60_exceptions.md R87): ERR and ERRCODE are unchanged. -/
def State.complete (s : State) : State :=
  { s with lastfail := false, busy := false, todo := none, pending := none }

/-- `READY <- 1 ; complete()`, the end of INIT (40_init.md R61), as one step (10_state.md R14; log 23). -/
def State.completeInit (s : State) : State := { s.complete with ready := true }

/-- Error return: what a host write of STATUS with bit 2 set does (10_state.md R15, 60_exceptions.md R91). -/
def State.clearErr (s : State) : State := { s with err := false, errcode := 0#4 }

/-! ## Acceptance -/

/-- Acceptance of the CMD value `v` (10_state.md R23, 20_memory.md R42): the latches and BUSY. -/
def State.accept (s : State) (v : Word) : State :=
  { s with
    busy := true
    lcmd := v.extractLsb' 0 8
    lcmdHigh0 := reservedZero v
    larg0 := s.arg0
    larg1 := s.arg1
    larg2 := s.arg2
    todo := none
    pending := none }

/-! ## Transactions -/

/-- The payload of `SendCmd(b)`: `[CMD_MARKER, b]` (20_memory.md R37). -/
def cmdPayload (c : Config) (b : Byte) : List Byte := [c.cmdMarker, b]

/-- The payload of `SendData(s)`: `[DATA_MARKER] ++ s` (20_memory.md R38). -/
def dataPayload (c : Config) (bytes : List Byte) : List Byte := c.dataMarker :: bytes

/-- `Tx(payload)` is issued to DEV_ADDR and awaits its answer; `rest` is what the command does after an ACK
(20_memory.md R36). -/
def State.issue (s : State) (payload : List Byte) (rest : List Action) : State :=
  { s with pending := some ⟨s.cfg.devAddr, payload⟩, todo := some rest }

/-- The outstanding transaction ends. -/
def State.record (s : State) (r : TxResult) : State :=
  match s.pending with
  | some t => { s with pending := none, bus := s.bus ++ [⟨t, r⟩] }
  | none => s

/-- The transport answers the outstanding transaction: on FAIL the command ends with TRANSPORT at once, with no retry
(20_memory.md R36, R39). -/
def State.answered (s : State) : Answer → State
  | .ack => s.record .ack
  | .fail => (s.record .fail).raise .transport

/-! ## Host accesses and reset -/

/-- The access completes and the host goes on to the next one in its program. -/
def State.hostAdvance (s : State) : State := { s with hostProg := s.hostProg.tail, held := false }

/-- The host reads `v`. -/
def State.hostReads (s : State) (v : Word) : State := { s with readData := v }

/-- A host access held at the time of reset completes with no effect: a held write is discarded and a held read
returns 0x00000000 (70_reset_and_hazards.md R97). -/
def State.dropHeld (s : State) : State :=
  if s.held then
    match s.hostProg with
    | .rd _ :: _ => (s.hostReads 0#32).hostAdvance
    | _ => s.hostAdvance
  else s

/-- The state of 10_state.md R24 for everything the block holds; the parameters, the free-value counter, the ports'
histories and the inputs are kept. -/
def State.toReset (s : State) : State :=
  { State.reset with
    cfg := s.cfg
    fbEpoch := s.fbEpoch + 1
    bus := s.bus
    hostProg := s.hostProg
    readData := s.readData
    turns := s.turns }

/-- Reset (70_reset_and_hazards.md R96, R97): the running command ends without `complete()` or `raise`, the
outstanding transaction is abandoned, a held access completes with no effect, and the state is that of 10_state.md
R24. -/
def State.resetInput (s : State) : State := (s.record .abandoned).dropHeld.toReset

end Sys2Proof.Machine
end

