-- ==== Sys2Proof/Machine/Operands.lean ====
section
/-!
DEFINITION. Operand decoding from the latched argument registers (30_encoding.md R49). The bits a definition does not
name are ignored (R50).
-/

namespace Sys2Proof.Machine

/-- WIDTH, the 16-bit field of LARG0[15:0], unsigned. -/
def State.width (s : State) : BitVec 16 := s.larg0.extractLsb' 0 16

/-- HEIGHT, the 16-bit field of LARG0[31:16], unsigned. -/
def State.height (s : State) : BitVec 16 := s.larg0.extractLsb' 16 16

/-- EXT, LARG2[0]. -/
def State.extIn (s : State) : Bool := s.larg2.getLsbD 0

/-- A coordinate: the two's complement number in the COORD_BITS low bits of a 16-bit register field. With
COORD_BITS = 16 it is `sext` of the whole field; a field has no room for more (log 22). -/
def coordinate (c : Config) (field : BitVec 16) : Int := (field.setWidth (min c.coordBits 16)).toInt

/-- The point a register denotes: the coordinates in `v[15:0]` and `v[31:16]`. -/
def wordPoint (c : Config) (v : Word) : Point :=
  ⟨coordinate c (v.extractLsb' 0 16), coordinate c (v.extractLsb' 16 16)⟩

/-- (X, Y) of SET_PIXEL and (X0, Y0) of DRAW_LINE, from LARG0. -/
def State.point0 (s : State) : Point := wordPoint s.cfg s.larg0

/-- (X1, Y1) of DRAW_LINE, from LARG1. -/
def State.point1 (s : State) : Point := wordPoint s.cfg s.larg1

/-- VALUE, the Boolean `LARG2[7:0] != 0`. -/
def State.value (s : State) : Bool := s.larg2.extractLsb' 0 8 != 0#8

/-- LEVEL, LARG2[7:0]. -/
def State.level (s : State) : Byte := s.larg2.extractLsb' 0 8

/-- FLAG, LARG2[0], as the number 0 or 1. -/
def State.flag (s : State) : Byte := (s.larg2.extractLsb' 0 1).setWidth 8

end Sys2Proof.Machine
end

