-- ==== Sys2Proof/Machine/Protocol.lean ====
section
/-!
DEFINITION. The controller byte strings: the initialisation sequence (30_encoding.md R53 to R55) and the flush window
(R56, 41_clear_flush.md R67).
-/

namespace Sys2Proof.Machine

/-- A number as a byte, modulo 256 (30_encoding.md R53: "`H-1` is the byte `(H - 1) mod 256`"; log 21). -/
def toByte (n : Nat) : Byte := BitVec.ofNat 8 n

/-- COMPIN (30_encoding.md R54): the condition `W > 2*H` is strict. -/
def comPin (c : Ctrl) (w h : Nat) : Byte := if w > 2 * h then c.comPinWide else c.comPinTall

/-- PRE (30_encoding.md R55). -/
def prechargeByte (c : Ctrl) (ext : Bool) : Byte := if ext then c.prechargeExt else c.prechargeInt

/-- CP (30_encoding.md R55). -/
def chargePumpByte (c : Ctrl) (ext : Bool) : Byte := if ext then c.chargePumpExt else c.chargePumpInt

/-- `InitSeq(W, H, EXT)`, the sixteen steps in the source's order, 25 bytes (30_encoding.md R52, R53). -/
def initSeq (c : Ctrl) (w h : Nat) (ext : Bool) : List Byte :=
  [c.dispOff,
   c.memAddr, c.memHorizontal,
   c.startLine,
   c.segRemap,
   c.muxRatio, toByte (h - 1),
   c.comScanRev,
   c.dispOffset, 0x00#8,
   c.comPinCfg, comPin c w h,
   c.clkDiv, c.clkDivValue,
   c.precharge, prechargeByte c ext,
   c.vcomDesel, c.vcomValue,
   c.contrastMax, c.contrastMaxLevel,
   c.entireOnRam,
   c.normal,
   c.chargePump, chargePumpByte c ext,
   c.dispOn]

/-- OFF, the column shift: 32 if `W = 64` exactly, else 0 (30_encoding.md R56). -/
def colOffset (w : Nat) : Nat := if w = 64 then 32 else 0

/-- `WinSeq(W, H)`, 6 bytes (30_encoding.md R56). -/
def winSeq (c : Ctrl) (w h : Nat) : List Byte :=
  [c.colAddr, toByte (colOffset w), toByte (w - 1 + colOffset w),
   c.pageAddr, 0x00#8, toByte (h / 8 - 1)]

/-- One SendCmd for each byte (20_memory.md R37). -/
def sendAll (bytes : List Byte) : List Action := bytes.map .sendCmd

/-- `FlushBody()` (41_clear_flush.md R68): six command transactions, then one data transaction. -/
def flushBody (c : Ctrl) (w h : Nat) : List Action := sendAll (winSeq c w h) ++ [.sendData]

end Sys2Proof.Machine
end

