-- ==== Sys2Proof/Machine/Engine.lean ====
section
/-!
DEFINITION. How the engine runs a command's actions (10_state.md R23, 20_memory.md R36, R39, R40): as far as it can
(`engineRun`) or one action at a time (`microAction`).
-/

namespace Sys2Proof.Machine

/-- The command begins with the actions `as` to do. -/
def State.plan (s : State) (as : List Action) : State := { s with todo := some as }

/-- A command that needs `READY = 1`: NOT_READY otherwise (60_exceptions.md R85, R88). -/
def State.planReady (s : State) (as : List Action) : State :=
  if s.ready then s.plan as else s.raise .notReady

/-- Issue a transaction; if the transport's answer is the next thing that happens, take it and, on ACK, go on with
`k`; otherwise wait with the transaction outstanding (20_memory.md R36, R39). -/
def transmit (s : State) (payload : List Byte) (rest : List Action) (k : State → State) : State :=
  match s.turns with
  | .answer .ack :: r => k (({ s with turns := r }.issue payload rest).answered .ack)
  | .answer .fail :: r => ({ s with turns := r }.issue payload rest).answered .fail
  | _ => s.issue payload rest

/-- Do the actions in order until the command ends or a transaction has no answer yet. -/
def runActions : List Action → State → State
  | [], s => s.complete
  | .ready :: _, s => s.completeInit
  | .zeroFill :: as, s => runActions as s.zeroFill
  | .setBit p v :: as, s => runActions as (s.fbSetBit p v)
  | .sendCmd b :: as, s => transmit s (cmdPayload s.cfg b) as (runActions as)
  | .sendData :: as, s => transmit s (dataPayload s.cfg s.frame) as (runActions as)

/-- The engine goes on with the command that runs, if any. -/
def engineRun (s : State) : State :=
  match s.todo with
  | some as => runActions as s
  | none => s

/-- The engine does the next action of `as`, one action of the command that runs. -/
def microAction (as : List Action) (s : State) : State :=
  match as with
  | [] => s.complete
  | .ready :: _ => s.completeInit
  | .zeroFill :: rest => s.zeroFill.plan rest
  | .setBit p v :: rest => (s.fbSetBit p v).plan rest
  | .sendCmd b :: rest => s.issue (cmdPayload s.cfg b) rest
  | .sendData :: rest => s.issue (dataPayload s.cfg s.frame) rest

end Sys2Proof.Machine
end

