-- ==== Sys2Proof/Machine/ClearFlush.lean ====
section
/-!
DEFINITION. CLEAR and FLUSH (41_clear_flush.md R65 to R70).
-/

namespace Sys2Proof.Machine

/-- CLEAR: NOT_READY, else the zero fill; no transaction (41_clear_flush.md R65). -/
def startClear (s : State) : State := s.planReady [.zeroFill]

/-- CLEAR (41_clear_flush.md R65). -/
def execClear (s : State) : Host.Outcome State Fault Refusal := .next (engineRun (startClear s))

/-- FLUSH: NOT_READY, else FlushBody (41_clear_flush.md R68). -/
def startFlush (s : State) : State := s.planReady (flushBody s.cfg.ctrl s.w.toNat s.h.toNat)

/-- FLUSH (41_clear_flush.md R68). -/
def execFlush (s : State) : Host.Outcome State Fault Refusal := .next (engineRun (startFlush s))

end Sys2Proof.Machine
end

