-- ==== Sys2Proof/Machine/Init.lean ====
section
/-!
DEFINITION. INIT (40_init.md R59 to R64).
-/

namespace Sys2Proof.Machine

/-- INIT's transactions and its end: InitSeq, the clear, FlushBody, `READY <- 1` (40_init.md R61). -/
def initActions (c : Ctrl) (w h : Nat) (ext : Bool) : List Action :=
  sendAll (initSeq c w h ext) ++ .zeroFill :: flushBody c w h ++ [.ready]

/-- INIT up to its first transaction: ALREADY_READY (40_init.md R63), BAD_GEOMETRY (R60), then the latches of W, H, EXT
and the zero fill, which comes before the first transaction (R61, R64 (6); log 24). -/
def startInit (s : State) : State :=
  if s.ready then s.raise .alreadyReady
  else if geometryLegal s.cfg s.width.toNat s.height.toNat then
    (s.setGeometry s.width s.height s.extIn).zeroFill.plan
      (initActions s.cfg.ctrl s.width.toNat s.height.toNat s.extIn)
  else s.raise .badGeometry

/-- INIT (40_init.md R61). -/
def execInit (s : State) : Host.Outcome State Fault Refusal := .next (engineRun (startInit s))

end Sys2Proof.Machine
end

