-- ==== Sys2Proof/Machine/PassThrough.lean ====
section
/-!
DEFINITION. CONTRAST, INVERT, POWER_ON and POWER_OFF (43_passthrough.md R79 to R83).
-/

namespace Sys2Proof.Machine

/-- CONTRAST: NOT_READY, else two command transactions (43_passthrough.md R79). -/
def startContrast (s : State) : State := s.planReady (sendAll [s.cfg.ctrl.setContrast, s.level])

/-- CONTRAST (43_passthrough.md R79). -/
def execContrast (s : State) : Host.Outcome State Fault Refusal := .next (engineRun (startContrast s))

/-- INVERT: NOT_READY, else one command transaction, `0xA6 OR FLAG` (43_passthrough.md R80). -/
def startInvert (s : State) : State := s.planReady (sendAll [s.cfg.ctrl.normInv ||| s.flag])

/-- INVERT (43_passthrough.md R80). -/
def execInvert (s : State) : Host.Outcome State Fault Refusal := .next (engineRun (startInvert s))

/-- POWER_ON: NOT_READY, else one command transaction, DISP_ON (43_passthrough.md R81). -/
def startPowerOn (s : State) : State := s.planReady (sendAll [s.cfg.ctrl.dispOn])

/-- POWER_ON (43_passthrough.md R81). -/
def execPowerOn (s : State) : Host.Outcome State Fault Refusal := .next (engineRun (startPowerOn s))

/-- POWER_OFF: NOT_READY, else one command transaction, DISP_OFF (43_passthrough.md R82). -/
def startPowerOff (s : State) : State := s.planReady (sendAll [s.cfg.ctrl.dispOff])

/-- POWER_OFF (43_passthrough.md R82). -/
def execPowerOff (s : State) : Host.Outcome State Fault Refusal := .next (engineRun (startPowerOff s))

end Sys2Proof.Machine
end

