-- ==== Sys2Proof/Machine/Line.lean ====
section
/-!
DEFINITION. The line rasterizer: the properties every LINE_ALG has (42_pixel_line.md R73), the reference rasterizer
(R74) and the sequence a configuration's LINE_ALG draws.
-/

namespace Sys2Proof.Machine

/-- Two points are distinct and 8-adjacent: the larger coordinate distance is 1 (42_pixel_line.md R73 (b)). -/
def adjacent (p q : Point) : Bool := max (q.x - p.x).natAbs (q.y - p.y).natAbs == 1

/-- Consecutive points of the sequence are 8-adjacent (42_pixel_line.md R73 (b)). -/
def noGaps : List Point → Bool
  | [] => true
  | [_] => true
  | p :: q :: ps => adjacent p q && noGaps (q :: ps)

/-- The sequence is one a conforming LINE_ALG may draw from `p` to `q` (42_pixel_line.md R73 (a), (b)): it begins at
`p`, ends at `q`, is the single point when `p = q`, and has no gaps. -/
def conforming (p q : Point) (ps : List Point) : Bool :=
  ps.head? == some p && ps.getLast? == some q && (p != q || ps == [p]) && noGaps ps

/-- One point of the reference rasterizer from its major and minor coordinates (42_pixel_line.md R74). -/
def refPoint (steep : Bool) (a b : Int) : Point := if steep then ⟨b, a⟩ else ⟨a, b⟩

/-- The loop of the reference rasterizer, `n` iterations from the major coordinate `a`, the minor coordinate `b` and
the error term `e` (42_pixel_line.md R74). The inner `while` runs at most once, so it is an `if` (R75 (1); log 20). -/
def refLoop (steep : Bool) (sx sy dx dy : Int) : Nat → Int → Int → Int → List Point
  | 0, _, _, _ => []
  | n + 1, a, b, e =>
    refPoint steep a b ::
      refLoop steep sx sy dx dy n (a + sx) (if e ≥ 0 then b + sy else b)
        ((if e ≥ 0 then e - 2 * dx else e) + 2 * dy)

/-- `RefLine(x0, y0, x1, y1)`, the reference rasterizer (42_pixel_line.md R74). -/
def refLine (p q : Point) : List Point :=
  let dx := ((q.x - p.x).natAbs : Int)
  let sx : Int := if q.x - p.x > 0 then 1 else -1
  let dy := ((q.y - p.y).natAbs : Int)
  let sy : Int := if q.y - p.y > 0 then 1 else -1
  if dy > dx then
    refLoop true sy sx dy dx dy.toNat p.y p.x (2 * dx - dy) ++ [q]
  else
    refLoop false sx sy dx dy dx.toNat p.x p.y (2 * dy - dx) ++ [q]

/-- The pixel sequence of LINE_ALG (42_pixel_line.md R73). For `other n` it is any sequence that meets R73: an
uninterpreted one where that conforms, and the reference one where it does not, so that nothing but R73 is known of
it (log 5). It depends on the end points only (R73 (c)). -/
def linePoints (alg : LineAlg) (p q : Point) : List Point :=
  match alg with
  | .reference => refLine p q
  | .other n =>
    if conforming p q (Config.openLine n p q) then Config.openLine n p q else refLine p q

end Sys2Proof.Machine
end

