-- ==== Sys2Proof/Machine/PixelLine.lean ====
section
/-!
DEFINITION. SET_PIXEL and DRAW_LINE (42_pixel_line.md R71 to R78).
-/

namespace Sys2Proof.Machine

/-- SET_PIXEL: NOT_READY, else one FbSetBit; no transaction (42_pixel_line.md R71). -/
def startSetPixel (s : State) : State := s.planReady [.setBit s.point0 s.value]

/-- SET_PIXEL (42_pixel_line.md R71). -/
def execSetPixel (s : State) : Host.Outcome State Fault Refusal := .next (engineRun (startSetPixel s))

/-- One FbSetBit for each point, in drawing order (42_pixel_line.md R76). -/
def setAll (ps : List Point) (v : Bool) : List Action := ps.map (.setBit · v)

/-- DRAW_LINE: NOT_READY, else FbSetBit of each point of LINE_ALG; no transaction (42_pixel_line.md R76). -/
def startDrawLine (s : State) : State :=
  s.planReady (setAll (linePoints s.cfg.lineAlg s.point0 s.point1) s.value)

/-- DRAW_LINE (42_pixel_line.md R76). -/
def execDrawLine (s : State) : Host.Outcome State Fault Refusal := .next (engineRun (startDrawLine s))

end Sys2Proof.Machine
end

