-- ==== Sys2Proof/Machine/Dispatch.lean ====
section
/-!
DEFINITION. One arm for each command: its meaning, from acceptance on (60_exceptions.md R88).
-/

namespace Sys2Proof.Machine

def exec (i : Instr) (s : State) : Host.Outcome State Fault Refusal :=
  match i with
  | .init => Sys2Proof.Machine.execInit s
  | .clear => Sys2Proof.Machine.execClear s
  | .flush => Sys2Proof.Machine.execFlush s
  | .setPixel => Sys2Proof.Machine.execSetPixel s
  | .drawLine => Sys2Proof.Machine.execDrawLine s
  | .contrast => Sys2Proof.Machine.execContrast s
  | .invert => Sys2Proof.Machine.execInvert s
  | .powerOn => Sys2Proof.Machine.execPowerOn s
  | .powerOff => Sys2Proof.Machine.execPowerOff s

end Sys2Proof.Machine
end

