-- ==== Sys2Proof/Machine/Flags.lean ====
section
/-!
DEFINITION. What the read-only views of the state read as: STATUS (10_state.md R14), GEOM (R19) and the framebuffer
window (20_memory.md R29).
-/

namespace Sys2Proof.Machine

/-- STATUS bit 3, EXTPWR: `EXT` if `READY = 1`, else 0 (10_state.md R14). -/
def State.extpwr (s : State) : Bool := s.ready && s.ext

/-- STATUS bits 11:8: 0 when `ERR = 0` (10_state.md R14; log 15). -/
def State.errcodeField (s : State) : BitVec 4 := if s.err then s.errcode else 0#4

/-- What a read of STATUS returns (10_state.md R14); the reserved fields read 0 (R25). -/
def State.status (s : State) : Word :=
  0#20 ++ s.errcodeField ++ 0#3 ++ BitVec.ofBool s.lastfail ++ BitVec.ofBool s.extpwr ++ BitVec.ofBool s.err ++
    BitVec.ofBool s.ready ++ BitVec.ofBool s.busy

/-- What a read of GEOM returns: `(H << 16) | W` if `READY = 1`, else 0 (10_state.md R19). -/
def State.geom (s : State) : Word := if s.ready then s.h ++ s.w else 0#32

/-- One byte of the framebuffer window (20_memory.md R29). -/
def State.winByte (s : State) (i : Nat) : Byte :=
  if s.ready && decide (i < s.frameBytes) then s.fbRead i else 0x00#8

/-- The framebuffer window word `k`: little-endian, byte `4k` in bits 7:0 (20_memory.md R29). -/
def State.winWord (s : State) (k : Nat) : Word :=
  s.winByte (4 * k + 3) ++ s.winByte (4 * k + 2) ++ s.winByte (4 * k + 1) ++ s.winByte (4 * k)

end Sys2Proof.Machine
end

