-- ==== Sys2Proof/Machine/HostPort.lean ====
section
/-!
DEFINITION. The host port: the address map (20_memory.md R27, R28), reads and writes of the registers (10_state.md R13
to R19), the data and address widths (00_scope.md R5), and the holds while BUSY = 1 (70_reset_and_hazards.md R101, R102).
-/

namespace Sys2Proof.Machine

/-- What a word of the host window is (20_memory.md R27). -/
inductive HostReg where
  | cmd
  | status
  | arg0
  | arg1
  | arg2
  | geom
  | unmapped
  | fbwin (k : Nat)
  deriving DecidableEq, Repr

/-- The host address map (20_memory.md R27), by word index: offset 0x004 is index 1, 0x400 is index 256. -/
def hostReg (k : WordIndex) : HostReg :=
  if k = 0#9 then .cmd
  else if k = 1#9 then .status
  else if k = 2#9 then .arg0
  else if k = 3#9 then .arg1
  else if k = 4#9 then .arg2
  else if k = 5#9 then .geom
  else if 256 ≤ k.toNat then .fbwin (k.toNat - 256)
  else .unmapped

/-- The word the port's address lines name: the byte offset, in the host address width (00_scope.md R5; log 22). -/
def portIndex (c : Config) (k : WordIndex) : WordIndex :=
  BitVec.ofNat 9 (k.offset.toNat % 2 ^ c.hostAddrBits / 4)

/-- What an access of the port reaches. -/
def portReg (c : Config) (k : WordIndex) : HostReg := hostReg (portIndex c k)

/-- What the port's data lines carry of a word: its low bits, in the host data width (00_scope.md R5; log 22). -/
def portData (c : Config) (v : Word) : Word := BitVec.ofNat 32 (v.toNat % 2 ^ c.hostDataBits)

/-- The value of what a host read reaches (20_memory.md R28, R29). -/
def State.regValue (s : State) (r : HostReg) : Word :=
  match r with
  | .cmd => 0#32
  | .status => s.status
  | .arg0 => s.arg0
  | .arg1 => s.arg1
  | .arg2 => s.arg2
  | .geom => s.geom
  | .unmapped => 0#32
  | .fbwin j => s.winWord j

/-- What a host read returns when it takes effect; it has no side effect (20_memory.md R41). -/
def State.hostValue (s : State) (k : WordIndex) : Word := portData s.cfg (s.regValue (portReg s.cfg k))

/-- A host write of STATUS: ERR and ERRCODE are cleared if bit 2 is set; every other bit is ignored (10_state.md
R15). -/
def State.writeStatus (s : State) (v : Word) : State := if v.getLsbD 2 then s.clearErr else s

/-- What a write of the value `v` to what it reaches does (10_state.md R13, R15 to R19, 20_memory.md R28). -/
def State.regStore (s : State) (r : HostReg) (v : Word) : State :=
  match r with
  | .cmd => s.accept v
  | .status => s.writeStatus v
  | .arg0 => { s with arg0 := v }
  | .arg1 => { s with arg1 := v }
  | .arg2 => { s with arg2 := v }
  | .geom => s
  | .unmapped => s
  | .fbwin _ => s

/-- What a host write does when it takes effect. -/
def State.hostStore (s : State) (k : WordIndex) (v : Word) : State :=
  s.regStore (portReg s.cfg k) (portData s.cfg v)

/-- A write of it is held while BUSY = 1: CMD and STATUS (70_reset_and_hazards.md R101, R102). -/
def HostReg.heldWrite : HostReg → Bool
  | .cmd => true
  | .status => true
  | .arg0 => false
  | .arg1 => false
  | .arg2 => false
  | .geom => false
  | .unmapped => false
  | .fbwin _ => false

/-- A read of it is held while BUSY = 1: GEOM and FBWIN (70_reset_and_hazards.md R102). -/
def HostReg.heldRead : HostReg → Bool
  | .cmd => false
  | .status => false
  | .arg0 => false
  | .arg1 => false
  | .arg2 => false
  | .geom => true
  | .unmapped => false
  | .fbwin _ => true

/-- The access is held while BUSY = 1 (70_reset_and_hazards.md R101, R102). -/
def HostOp.holdable (c : Config) : HostOp → Bool
  | .wr k _ => (portReg c k).heldWrite
  | .rd k => (portReg c k).heldRead
  | .wait => false

/-- `wait`, given the word its read of STATUS returned: the host goes on once bit 0, BUSY, reads 0 (30_encoding.md
R57; log 3). -/
def State.hostWaits (s : State) (status : Word) : State :=
  if status.getLsbD 0 then s.hostReads status else (s.hostReads status).hostAdvance

/-- A host access takes effect and completes. -/
def State.hostPerform (s : State) (op : HostOp) : State :=
  match op with
  | .wr k v => (s.hostStore k v).hostAdvance
  | .rd k => (s.hostReads (s.hostValue k)).hostAdvance
  | .wait => s.hostWaits (s.hostValue 1#9)

/-- The host's turn: it presents the next access of its program, which takes effect at once or is held
(70_reset_and_hazards.md R101, R102). -/
def hostTurn (s : State) : State :=
  match s.hostProg with
  | [] => s
  | op :: _ => if s.busy && op.holdable s.cfg then { s with held := true } else s.hostPerform op

end Sys2Proof.Machine
end

