-- ==== Sys2Proof/Machine/Agents.lean ====
section
/-!
DEFINITION. One move of each agent (10_state.md R9): the engine, which decodes the accepted command and runs it
(60_exceptions.md R88), the host, the transport and the reset input.
-/

namespace Sys2Proof.Machine

/-- The engine's turn. With no command accepted, or a transaction outstanding, nothing happens (20_memory.md R36); a
command that has begun goes on; an accepted one is decoded and run, or ends with ILLEGAL (60_exceptions.md R88). -/
def engineTurn (s : State) : Host.Outcome State Fault Refusal :=
  if s.busy && s.pending.isNone then
    match s.todo with
    | some _ => .next (engineRun s)
    | none =>
      match decodeLatched s.lcmdHigh0 s.lcmd with
      | .ok i => exec i s
      | .error _ => .next (s.raise .illegal)
  else .next s

/-- A command up to its first action: its checks, and for INIT the latches and the zero fill. -/
def startCommand (i : Instr) (s : State) : State :=
  match i with
  | .init => startInit s
  | .clear => startClear s
  | .flush => startFlush s
  | .setPixel => startSetPixel s
  | .drawLine => startDrawLine s
  | .contrast => startContrast s
  | .invert => startInvert s
  | .powerOn => startPowerOn s
  | .powerOff => startPowerOff s

/-- The engine does one action: the start of the accepted command, or the next action of the one that runs. -/
def microTurn (s : State) : State :=
  if s.busy && s.pending.isNone then
    match s.todo with
    | some as => microAction as s
    | none =>
      match decodeLatched s.lcmdHigh0 s.lcmd with
      | .ok i => startCommand i s
      | .error _ => s.raise .illegal
  else s

/-- The transport's turn: it answers the outstanding transaction; with none outstanding nothing happens (log 10). -/
def answerTurn (a : Answer) (s : State) : State := if s.pending.isSome then s.answered a else s

/-- The move of one entry of `turns`. A late answer to an abandoned transaction is ignored
(70_reset_and_hazards.md R97). -/
def takeTurn (t : Turn) (s : State) : Host.Outcome State Fault Refusal :=
  match t with
  | .host => .next (hostTurn s)
  | .engine => engineTurn s
  | .micro => .next (microTurn s)
  | .answer a => .next (answerTurn a s)
  | .lateAnswer _ => .next s
  | .reset => .next s.resetInput

/-- Who moves when `turns` names no one: the engine if it can, else the host (log 13). With a transaction outstanding
and the host's access held, or no access left, nothing changes any more: the hang of 60_exceptions.md R95 (log 14). -/
def idleTurn (s : State) : Host.Outcome State Fault Refusal :=
  if s.busy && s.pending.isNone then engineTurn s else .next (hostTurn s)

end Sys2Proof.Machine
end

