-- ==== Sys2Proof/Machine/Step.lean ====
section
/-!
DEFINITION. One step of the machine, and the acceptance of a command word from outside the host's program.
-/

namespace Sys2Proof.Machine

/-- One step: the agent that `turns` names next moves (log 1). -/
def step (s : State) : Host.Outcome State Fault Refusal :=
  match s.turns with
  | [] => idleTurn s
  | t :: r => takeTurn t { s with turns := r }

/-- `s` with the command word accepted, as a host write of it to CMD does (10_state.md R23), and the engine next to
move: the very next step decodes and runs it (log 11). -/
def State.withFetchWord (s : State) (nbits w : Nat) : State :=
  { s.accept (tableWord nbits w) with turns := .engine :: s.turns }

end Sys2Proof.Machine
end

