-- ==== Sys2Proof/Machine/Assembler.lean ====
section
/-!
DEFINITION. The host program notation (30_encoding.md R57): the pseudo-instructions and their expansion into host
accesses, the encoding of a program, the transport answers a test harness gives, and a machine with its inputs
loaded.
-/

namespace Sys2Proof.Machine

/-- The word index of a byte offset of the host window (20_memory.md R26, R27). -/
def wordAt (offset : Nat) : WordIndex := BitVec.ofNat 9 (offset / 4)

/-- A pseudo-instruction; operands are integers (30_encoding.md R57). -/
inductive Pseudo where
  | init (w h e : Int)
  | clear
  | flush
  | setPixel (x y v : Int)
  | drawLine (x0 y0 x1 y1 v : Int)
  | contrast (l : Int)
  | invert (f : Int)
  | powerOn
  | powerOff
  | clrErr
  deriving DecidableEq, Repr

/-- The operand is a 32-bit immediate. -/
def imm32 (n : Int) : Bool := decide (0 ≤ n) && decide (n < 4294967296)

/-- The operand is a 16-bit field that is not reduced by `lo16`. -/
def imm16 (n : Int) : Bool := decide (0 ≤ n) && decide (n < 65536)

/-- The operands the expansion of a pseudo-instruction can carry (30_encoding.md R57; log 25): `imm32` values, and
fields of 16 bits where `lo16` is not applied. -/
def Pseudo.wf : Pseudo → Bool
  | .init w h e => imm16 w && imm16 h && imm32 e
  | .clear => true
  | .flush => true
  | .setPixel _ _ v => imm32 v
  | .drawLine _ _ _ _ v => imm32 v
  | .contrast l => imm32 l
  | .invert f => imm32 f
  | .powerOn => true
  | .powerOff => true
  | .clrErr => true

/-- `lo16(a)`, `a mod 65536` (30_encoding.md R57). -/
def lo16 (a : Int) : BitVec 16 := BitVec.ofInt 16 a

/-- `(lo16(hi) << 16) | lo16(lo)`. -/
def pack16 (hi lo : Int) : Word := lo16 hi ++ lo16 lo

/-- `wr CMD, op`. -/
def wrCmd (i : Instr) : HostOp := .wr (wordAt 0x000) (encode i)

/-- The expansion of a pseudo-instruction into host accesses (30_encoding.md R57). -/
def Pseudo.expand : Pseudo → List HostOp
  | .init w h e =>
    [.wr (wordAt 0x008) (BitVec.ofInt 32 (h * 65536) ||| BitVec.ofInt 32 w), .wr (wordAt 0x010) (BitVec.ofInt 32 e),
      wrCmd .init]
  | .clear => [wrCmd .clear]
  | .flush => [wrCmd .flush]
  | .setPixel x y v =>
    [.wr (wordAt 0x008) (pack16 y x), .wr (wordAt 0x010) (BitVec.ofInt 32 v), wrCmd .setPixel]
  | .drawLine x0 y0 x1 y1 v =>
    [.wr (wordAt 0x008) (pack16 y0 x0), .wr (wordAt 0x00C) (pack16 y1 x1), .wr (wordAt 0x010) (BitVec.ofInt 32 v),
      wrCmd .drawLine]
  | .contrast l => [.wr (wordAt 0x010) (BitVec.ofInt 32 l), wrCmd .contrast]
  | .invert f => [.wr (wordAt 0x010) (BitVec.ofInt 32 f), wrCmd .invert]
  | .powerOn => [wrCmd .powerOn]
  | .powerOff => [wrCmd .powerOff]
  | .clrErr => [.wr (wordAt 0x004) 0x00000004#32]

/-- The encoding of a host program: the (offset, value) pairs of its `wr` statements (30_encoding.md R57). -/
def encodeProgram (p : List HostOp) : List (Nat × Word) :=
  p.filterMap fun op =>
    match op with
    | .wr k v => some (k.offset.toNat, v)
    | .rd _ => none
    | .wait => none

/-- The mnemonic of a command (30_encoding.md R46). -/
def mnemonic : Instr → String
  | .init => "INIT"
  | .clear => "CLEAR"
  | .flush => "FLUSH"
  | .setPixel => "SET_PIXEL"
  | .drawLine => "DRAW_LINE"
  | .contrast => "CONTRAST"
  | .invert => "INVERT"
  | .powerOn => "POWER_ON"
  | .powerOff => "POWER_OFF"

/-- The source's name of the operation, accepted as a synonym (30_encoding.md R57). -/
def sourceName : Instr → String
  | .init => "initialize"
  | .clear => "clear"
  | .flush => "flush"
  | .setPixel => "set_pixel"
  | .drawLine => "draw_line"
  | .contrast => "contrast"
  | .invert => "invert"
  | .powerOn => "power_on"
  | .powerOff => "power_off"

/-- The nine commands, in the order of 30_encoding.md R46. -/
def allInstrs : List Instr := opcodeMap.map (·.instr)

/-- The command a name stands for: a mnemonic or its synonym (30_encoding.md R57). -/
def instrOfName (n : String) : Option Instr := allInstrs.find? (fun i => n == mnemonic i || n == sourceName i)

/-- The answers of a harness that answers FAIL to the `n`-th transaction (from 1) of a command of `count`
transactions, given `some n`, and ACK to the others (`xfail n`, 30_encoding.md R57). -/
def harnessAnswers (count : Nat) (xfail : Option Nat) : List Turn :=
  (List.range count).map fun k => .answer (if xfail = some (k + 1) then .fail else .ack)

/-- The machine right after reset with a host program and an order of moves loaded (log 11). -/
def State.loaded (prog : List HostOp) (order : List Turn) : State :=
  { State.reset with hostProg := prog, turns := order }

end Sys2Proof.Machine
end

