-- ==== Sys2Proof/Machine/Receiver.lean ====
section
/-!
DEFINITION. The receiver assumption of 20_memory.md R45: not a rule of the block and no part of its state, only what a
claim about the panel must assume of the environment (log 19).
-/

namespace Sys2Proof.Machine

/-- The column and page windows a receiver in horizontal addressing mode has been given (20_memory.md R45). -/
structure Window where
  c0 : Nat
  c1 : Nat
  p0 : Nat
  p1 : Nat
  deriving DecidableEq, Repr

/-- The window that the six bytes of WinSeq select, commands 0x21 and 0x22 of the table (20_memory.md R45). -/
def windowOf (c : Ctrl) (bytes : List Byte) : Option Window :=
  match bytes with
  | [b0, c0, c1, b3, p0, p1] =>
    if b0 = c.colAddr ∧ b3 = c.pageAddr then some ⟨c0.toNat, c1.toNat, p0.toNat, p1.toNat⟩ else none
  | _ => none

/-- The display RAM page the `k`-th data byte (from 0) is written to (20_memory.md R45). -/
def Window.page (win : Window) (k : Nat) : Nat :=
  win.p0 + k / (win.c1 - win.c0 + 1) % (win.p1 - win.p0 + 1)

/-- The display RAM column the `k`-th data byte (from 0) is written to (20_memory.md R45). -/
def Window.column (win : Window) (k : Nat) : Nat := win.c0 + k % (win.c1 - win.c0 + 1)

end Sys2Proof.Machine
end

