-- ==== Sys2Proof/Safety.lean ====
section
/-!
DEFINITION. The terms claims use: the invariant of the machine, acceptance, the answers a command needs, and the
one-action-at-a-time order of moves.
-/

namespace Sys2Proof.Machine

/-- The framebuffer bytes `0 .. PAGES*W - 1` have all been written since reset (10_state.md R21, R24). -/
def State.filled (s : State) : Prop := ∀ i, i < s.frameBytes → (s.fb.read? i).isSome = true

/-- The action writes the framebuffer. -/
def Action.writesFb : Action → Bool
  | .zeroFill => true
  | .setBit _ _ => true
  | .sendCmd _ => false
  | .sendData => false
  | .ready => false

/-- The commands that write the framebuffer (10_state.md R21, 20_memory.md R32). -/
def writesFramebuffer : Instr → Bool
  | .init => true
  | .clear => true
  | .flush => false
  | .setPixel => true
  | .drawLine => true
  | .contrast => false
  | .invert => false
  | .powerOn => false
  | .powerOff => false

/-- If one of the actions writes the framebuffer, the command is one that does. -/
def fbActionsBelong (i : Instr) (as : List Action) : Prop := ∀ a ∈ as, a.writesFb = true → writesFramebuffer i = true

/-- The invariant every step keeps. -/
structure State.Inv (s : State) : Prop where
  /-- The framebuffer RAM is in its canonical form. -/
  canonical : s.fb.wf
  /-- No byte at or above FB_CAP is ever written (10_state.md R21). -/
  inside : ∀ c ∈ s.fb, c.1 < s.cfg.fbCap
  /-- While READY = 1 the geometry is legal (10_state.md R20) and the framebuffer has been written (R24); so it is
  while a command that has begun still runs. -/
  geometry : s.ready = true ∨ s.todo ≠ none →
    geometryLegal s.cfg s.w.toNat s.h.toNat = true ∧ s.filled
  /-- READY stays 0 until INIT ends (40_init.md R62). -/
  notYet : ∀ as, s.todo = some as → Action.ready ∈ as → s.ready = false
  /-- ERRCODE is 0 exactly when ERR = 0 (10_state.md R14). -/
  errcode : s.err = false ↔ s.errcode = 0#4
  /-- Error codes 6 to 15 are never produced (60_exceptions.md R85). -/
  codeKnown : s.errcode.toNat ≤ 5
  /-- With BUSY = 0 no command executes and no transaction is outstanding (10_state.md R24). -/
  idle : s.busy = false → s.todo = none ∧ s.pending = none
  /-- A transaction is outstanding only while a command runs (20_memory.md R36). -/
  running : s.pending ≠ none → s.todo ≠ none
  /-- The actions that are left belong to the latched command (10_state.md R23), and only four commands have actions
  that write the framebuffer (20_memory.md R32). -/
  progress : ∀ as, s.todo = some as → ∃ i, decodeLatched s.lcmdHigh0 s.lcmd = .ok i ∧ fbActionsBelong i as
  /-- Only a host access that the holds name is held (70_reset_and_hazards.md R102). -/
  heldAccess : s.held = true → ∃ op ops, s.hostProg = op :: ops ∧ op.holdable s.cfg = true

/-- A command has been accepted and has not begun (10_state.md R23). -/
def State.Accepted (s : State) (i : Instr) : Prop :=
  s.busy = true ∧ s.todo = none ∧ s.pending = none ∧ decodeLatched s.lcmdHigh0 s.lcmd = .ok i

/-- `n` answers ACK. -/
def acks (n : Nat) : List Turn := List.replicate n (.answer .ack)

/-- A transaction with its payload to DEV_ADDR that was answered ACK. -/
def acked (c : Config) (payload : List Byte) : BusRecord := ⟨⟨c.devAddr, payload⟩, .ack⟩

/-- One transaction, answered ACK, for each payload. -/
def carried (c : Config) (ps : List (List Byte)) : List BusRecord := ps.map (acked c)

/-- A transaction with its payload to DEV_ADDR that was answered FAIL. -/
def failedTx (c : Config) (payload : List Byte) : BusRecord := ⟨⟨c.devAddr, payload⟩, .fail⟩

/-- The payloads of one SendCmd for each byte (20_memory.md R37). -/
def cmdPayloads (c : Config) (bytes : List Byte) : List (List Byte) := bytes.map (cmdPayload c)

/-- The payloads of FlushBody, in order, for the framebuffer bytes `frame` (41_clear_flush.md R68): 7. -/
def flushPayloads (c : Config) (w h : Nat) (frame : List Byte) : List (List Byte) :=
  cmdPayloads c (winSeq c.ctrl w h) ++ [dataPayload c frame]

/-- The payloads of INIT, in order (40_init.md R61): 32. The framebuffer INIT sends is all zero. -/
def initPayloads (c : Config) (w h : Nat) (ext : Bool) : List (List Byte) :=
  cmdPayloads c (initSeq c.ctrl w h ext) ++ flushPayloads c w h (List.replicate (h / 8 * w) 0x00#8)

/-- The next turn is not the transport's answer. -/
def noAnswerNext (r : List Turn) : Prop := ∀ a q, r ≠ .answer a :: q

/-- Everything 10_state.md R24 says of the state after reset, and what the host then reads. -/
def State.AtReset (t : State) : Prop :=
  t.ready = false ∧ t.w = 0#16 ∧ t.h = 0#16 ∧ t.ext = false ∧ t.busy = false ∧ t.err = false ∧ t.errcode = 0#4 ∧
  t.lastfail = false ∧ t.arg0 = 0#32 ∧ t.arg1 = 0#32 ∧ t.arg2 = 0#32 ∧ t.lcmd = 0#8 ∧ t.larg0 = 0#32 ∧
  t.larg1 = 0#32 ∧ t.larg2 = 0#32 ∧ t.todo = none ∧ t.pending = none ∧
  t.status = 0#32 ∧ t.geom = 0#32 ∧ ∀ k, t.winWord k = 0#32

/-- The state after a command that ends in `complete()` after its transactions were answered ACK: LASTFAIL and BUSY
(60_exceptions.md R87), the transactions in `records` carried, and the answers taken, so that `turns` is `rest`. -/
def State.done (s : State) (records : List BusRecord) (rest : List Turn) : State :=
  { s with lastfail := false, busy := false, todo := none, pending := none, bus := s.bus ++ records, turns := rest }

/-- The transactions in `records` have been carried and the answers to them taken, so that `turns` is `rest`. -/
def State.sent (s : State) (records : List BusRecord) (rest : List Turn) : State :=
  { s with bus := s.bus ++ records, turns := rest }

/-- The state after a command that ends in `raise Err(TRANSPORT)` (60_exceptions.md R86): the transactions in
`records`, the last of them answered FAIL, and the answers taken, so that `turns` is `rest`. -/
def State.failed (s : State) (records : List BusRecord) (rest : List Turn) : State :=
  { s with err := true, errcode := 1#4, lastfail := true, busy := false, todo := none, pending := none,
           bus := s.bus ++ records, turns := rest }

/-- A command refused with the error code `c` (60_exceptions.md R86): nothing but the STATUS fields changes. -/
def State.refusedWith (s : State) (c : BitVec 4) : State :=
  { s with err := true, errcode := c, lastfail := true, busy := false, todo := none, pending := none }

/-- `FbSetBit(x, y, v)` of every point, in order (42_pixel_line.md R76). -/
def State.drawAll (s : State) (ps : List Point) (v : Bool) : State := ps.foldl (fun t p => t.fbSetBit p v) s

/-- The latched argument registers replaced. -/
def State.withLargs (s : State) (a0 a1 a2 : Word) : State := { s with larg0 := a0, larg1 := a1, larg2 := a2 }

/-- The argument registers replaced. -/
def State.withArgs (s : State) (a0 a1 a2 : Word) : State := { s with arg0 := a0, arg1 := a1, arg2 := a2 }

/-- The next state changed by `f`; a fault or a refusal as it is. -/
def mapNext (f : State → State) : Host.Outcome State Fault Refusal → Host.Outcome State Fault Refusal
  | .next t => .next (f t)
  | .fault r => .fault r
  | .refused r => .refused r

/-- The inner loop of the reference rasterizer as 42_pixel_line.md R74 writes it, at most `fuel` times:
`while e >= 0: b = b + sy ; e = e - 2*dx`. -/
def minorWhile (sy dx : Int) : Nat → Int × Int → Int × Int
  | 0, be => be
  | fuel + 1, be => if be.2 ≥ 0 then minorWhile sy dx fuel (be.1 + sy, be.2 - 2 * dx) else be

/-- The loop of the reference rasterizer with its inner `while`, `n` iterations (42_pixel_line.md R74). -/
def refLoopWhile (fuel : Nat) (steep : Bool) (sx sy dx dy : Int) : Nat → Int → Int → Int → List Point
  | 0, _, _, _ => []
  | n + 1, a, b, e =>
    refPoint steep a b ::
      refLoopWhile fuel steep sx sy dx dy n (a + sx) (minorWhile sy dx fuel (b, e)).1
        ((minorWhile sy dx fuel (b, e)).2 + 2 * dy)

/-- The order of moves in which the engine does the actions `as` one at a time and the transport answers ACK to each
transaction as soon as it is issued. -/
def microTurns : List Action → List Turn
  | [] => [.micro]
  | .ready :: _ => [.micro]
  | .zeroFill :: as => .micro :: microTurns as
  | .setBit _ _ :: as => .micro :: microTurns as
  | .sendCmd _ :: as => .micro :: .answer .ack :: microTurns as
  | .sendData :: as => .micro :: .answer .ack :: microTurns as

/-- The order of moves in which the engine, each time it has issued a transaction, waits for the answer and then goes on:
a move that finds no answer, the answer, the move that goes on. -/
def waitTurns : List Answer → List Turn
  | [] => []
  | a :: as => .engine :: .answer a :: .engine :: waitTurns as

/-- The number of transactions among the actions `as`, up to the command's end (70_reset_and_hazards.md R105). -/
def txCount : List Action → Nat
  | [] => 0
  | .ready :: _ => 0
  | .zeroFill :: as => txCount as
  | .setBit _ _ :: as => txCount as
  | .sendCmd _ :: as => txCount as + 1
  | .sendData :: as => txCount as + 1

end Sys2Proof.Machine
end

