-- ==== Sys2Proof/Certificates/Slice0/Obligations.lean ====
section
/-!
DEFINITION. The statements for the provers. Each docstring names the rule of spec/ it formalises, or says which choice
of the model it rests on. `StandardPort` in a statement says that the host port has the 32 data bits and the 11-bit
offset of 00_scope.md R5, the widths for which 20_memory.md R26, R27 lay the window out (log 22); State.reset has them
and no step changes them.
-/

open Sys2Proof Sys2Proof.Machine

/-! ## Encoding -/

/-- 30_encoding.md R46: the nine rows of the opcode map. -/
def Obligations.OpcodeMapDecodesNineCommands : Prop :=
  decode 0x00000001#32 = .ok .init ∧ decode 0x00000002#32 = .ok .clear ∧ decode 0x00000003#32 = .ok .flush ∧
  decode 0x00000004#32 = .ok .setPixel ∧ decode 0x00000005#32 = .ok .drawLine ∧
  decode 0x00000006#32 = .ok .contrast ∧ decode 0x00000007#32 = .ok .invert ∧ decode 0x00000008#32 = .ok .powerOn ∧
  decode 0x00000009#32 = .ok .powerOff

/-- 30_encoding.md R47: a command selects opcode `op` exactly when `v = zext_32(op)`; nothing is lost when the word is
latched (10_state.md R23), the table's reading of the word is the same, and the mask of every row of the opcode table is
0xFFFFFFFF. -/
def Obligations.DecodeIsExactlyEncode : Prop :=
  (∀ r ∈ opcodeMap, r.mask = 0xFFFFFFFF#32 ∧ r.value = encode r.instr) ∧
  ∀ (v : Word) (i : Instr),
    (decode v = .ok i ↔ v = i.opcode.setWidth 32) ∧
    (decode v = .ok i ↔ v = encode i) ∧
    (decodeTableWord 32 v.toNat = some i ↔ v = encode i) ∧
    decodeLatched (reservedZero v) (v.extractLsb' 0 8) = decode v

/-- 30_encoding.md R48: an ILLEGAL value is accepted like any other (BUSY and the latches), touches nothing but STATUS
and ends with error 2; every value that is none of the ILLEGAL ones is one of the nine commands. -/
def Obligations.IllegalCommandEndsWithIllegal : Prop :=
  ∀ (s : State) (v : Word) (r : List Turn),
    (∀ ops q, s.cfg.StandardPort → s.busy = false → s.hostProg = .wr (wordAt 0x000) v :: ops → s.turns = .host :: q →
      step s = .next { s.accept v with hostProg := ops, held := false, turns := q }) ∧
    s.accept v = { s with
      busy := true, lcmd := v.extractLsb' 0 8, lcmdHigh0 := decide (v.extractLsb' 8 24 = 0#24),
      larg0 := s.arg0, larg1 := s.arg1, larg2 := s.arg2, todo := none, pending := none } ∧
    (v.extractLsb' 8 24 ≠ 0#24 ∨ v.extractLsb' 0 8 = 0#8 ∨ 0x0A ≤ (v.extractLsb' 0 8).toNat →
      step { s.accept v with turns := .engine :: r } = .next ({ s.accept v with turns := r }.refusedWith 2#4)) ∧
    (¬ (v.extractLsb' 8 24 ≠ 0#24 ∨ v.extractLsb' 0 8 = 0#8 ∨ 0x0A ≤ (v.extractLsb' 0 8).toNat) →
      ∃ i, v = encode i ∧ (s.accept v).Accepted i)

/-- The engine's step of an accepted command is `exec` of it (60_exceptions.md R88, 10_state.md R23), at the state with
the turn taken. Which agent moves is the model's choice: that `turns` names the engine is log 1 (DESIGN CHOICE), and that
the engine moves where `turns` names no one is log 13 (DESIGN CHOICE). That a word given to `withFetchWord` runs in the
very next step is log 11 (DESIGN CHOICE). -/
def Obligations.StepRunsAcceptedCommand : Prop :=
  ∀ (s : State) (i : Instr),
    (s.Accepted i → (∀ r, s.turns = .engine :: r → step s = exec i { s with turns := r }) ∧
      (s.turns = [] → step s = exec i s)) ∧
    (∀ w, decodeTableWord 32 w = some i →
      step (s.withFetchWord 32 w) = exec i (s.accept (tableWord 32 w)))

/-! ## Acceptance, holds and the host port -/

/-- 70_reset_and_hazards.md R101: a CMD write while BUSY = 1 is held and takes no effect; with BUSY = 0 it is accepted,
held before or not, and the latches of 10_state.md R23 are written. -/
def Obligations.CommandWriteIsHeldThenAccepted : Prop :=
  ∀ (s : State) (v : Word) (ops : List HostOp) (r : List Turn),
    s.cfg.StandardPort → s.hostProg = .wr (wordAt 0x000) v :: ops → s.turns = .host :: r →
    (s.busy = true → step s = .next { s with held := true, turns := r }) ∧
    (s.busy = false → step s = .next { s with
      busy := true, lcmd := v.extractLsb' 0 8, lcmdHigh0 := decide (v.extractLsb' 8 24 = 0#24),
      larg0 := s.arg0, larg1 := s.arg1, larg2 := s.arg2, todo := none, pending := none,
      hostProg := ops, held := false, turns := r })

/-- 10_state.md R14: STATUS reads as the rule's table says, a read is never held and has no side effect, while BUSY stays
1 no other field changes, and ERR, once set, is cleared only by a host write of STATUS with bit 2 set or by reset. -/
def Obligations.StatusReadsAndChangesAsTheRuleSays : Prop :=
  ∀ s : State,
    (s.status.getLsbD 0 = s.busy ∧ s.status.getLsbD 1 = s.ready ∧ s.status.getLsbD 2 = s.err ∧
      s.status.getLsbD 3 = (s.ready && s.ext) ∧ s.status.getLsbD 4 = s.lastfail ∧
      s.status.extractLsb' 5 3 = 0#3 ∧ s.status.extractLsb' 8 4 = (if s.err then s.errcode else 0#4) ∧
      s.status.extractLsb' 12 20 = 0#20) ∧
    (∀ ops r, s.cfg.StandardPort → s.hostProg = .rd (wordAt 0x004) :: ops → s.turns = .host :: r →
      step s = .next { s with readData := s.status, hostProg := ops, held := false, turns := r }) ∧
    (∀ t, step s = .next t → s.busy = true → t.busy = true → t.status = s.status) ∧
    (∀ t, s.cfg.StandardPort → step s = .next t → s.err = true → t.err = false →
      (∃ r, s.turns = .reset :: r) ∨
      (∃ v ops, s.hostProg = .wr (wordAt 0x004) v :: ops ∧ v.getLsbD 2 = true ∧ s.busy = false))

/-- 10_state.md R15: a host write of STATUS clears ERR and ERRCODE if bit 2 is set, ignores every other bit, and is held
while BUSY = 1. -/
def Obligations.StatusWriteClearsErrOnly : Prop :=
  ∀ (s : State) (v : Word) (ops : List HostOp) (r : List Turn),
    s.cfg.StandardPort → s.hostProg = .wr (wordAt 0x004) v :: ops → s.turns = .host :: r →
    (s.busy = true → step s = .next { s with held := true, turns := r }) ∧
    (s.busy = false → v.getLsbD 2 = true → step s = .next { s with
      err := false, errcode := 0#4, hostProg := ops, held := false, turns := r }) ∧
    (s.busy = false → v.getLsbD 2 = false → step s = .next { s with hostProg := ops, held := false, turns := r })

/-- 10_state.md R11, R16 to R18: ARG0, ARG1, ARG2 are readable and writable at any time, BUSY or not, and a write
changes that register alone. -/
def Obligations.ArgRegistersReadAndWriteAtAnyTime : Prop :=
  ∀ (s : State) (v : Word) (ops : List HostOp) (r : List Turn), s.cfg.StandardPort → s.turns = .host :: r →
    (s.hostProg = .wr (wordAt 0x008) v :: ops →
      step s = .next { s with arg0 := v, hostProg := ops, held := false, turns := r }) ∧
    (s.hostProg = .wr (wordAt 0x00C) v :: ops →
      step s = .next { s with arg1 := v, hostProg := ops, held := false, turns := r }) ∧
    (s.hostProg = .wr (wordAt 0x010) v :: ops →
      step s = .next { s with arg2 := v, hostProg := ops, held := false, turns := r }) ∧
    (s.hostProg = .rd (wordAt 0x008) :: ops →
      step s = .next { s with readData := s.arg0, hostProg := ops, held := false, turns := r }) ∧
    (s.hostProg = .rd (wordAt 0x00C) :: ops →
      step s = .next { s with readData := s.arg1, hostProg := ops, held := false, turns := r }) ∧
    (s.hostProg = .rd (wordAt 0x010) :: ops →
      step s = .next { s with readData := s.arg2, hostProg := ops, held := false, turns := r })

/-- 10_state.md R19: GEOM reads `(H << 16) | W` if READY = 1, else 0; a read is held while BUSY = 1; writes are
ignored. -/
def Obligations.GeomReadsLatchedGeometry : Prop :=
  ∀ (s : State) (v : Word) (ops : List HostOp) (r : List Turn), s.cfg.StandardPort → s.turns = .host :: r →
    (s.ready = true → s.geom.toNat = s.h.toNat * 65536 + s.w.toNat) ∧ (s.ready = false → s.geom = 0#32) ∧
    (s.hostProg = .rd (wordAt 0x014) :: ops → s.busy = false →
      step s = .next { s with readData := s.geom, hostProg := ops, held := false, turns := r }) ∧
    (s.hostProg = .rd (wordAt 0x014) :: ops → s.busy = true → step s = .next { s with held := true, turns := r }) ∧
    (s.hostProg = .wr (wordAt 0x014) v :: ops →
      step s = .next { s with hostProg := ops, held := false, turns := r })

/-- 20_memory.md R28: an unmapped read returns 0; a write to an unmapped offset, to GEOM or to FBWIN is ignored; no
access raises an error. -/
def Obligations.UnmappedAndReadOnlyOffsets : Prop :=
  ∀ (s : State) (off : Nat) (v : Word) (ops : List HostOp) (r : List Turn),
    s.cfg.StandardPort → s.turns = .host :: r → off ≤ 0x7FC → off % 4 = 0 →
    (0x018 ≤ off → off ≤ 0x3FC → s.hostProg = .rd (wordAt off) :: ops →
      step s = .next { s with readData := 0#32, hostProg := ops, held := false, turns := r }) ∧
    (0x014 ≤ off → s.hostProg = .wr (wordAt off) v :: ops →
      step s = .next { s with hostProg := ops, held := false, turns := r }) ∧
    (∀ t, step s = .next t → t.lastfail = s.lastfail ∧ (t.err = true → s.err = true ∧ t.errcode = s.errcode))

/-- 20_memory.md R29: the framebuffer window word, little-endian, 0 where READY = 0 or the byte is at or above
`PAGES * W`; a read is held while BUSY = 1. -/
def Obligations.FramebufferWindowReads : Prop :=
  ∀ (s : State) (k : Nat), k < 256 →
    (∀ j, j < 4 → (s.winWord k).extractLsb' (8 * j) 8 =
      if s.ready = true ∧ 4 * k + j < s.h.toNat / 8 * s.w.toNat then s.fbRead (4 * k + j) else 0x00#8) ∧
    (∀ ops r, s.cfg.StandardPort → s.hostProg = .rd (wordAt (0x400 + 4 * k)) :: ops → s.turns = .host :: r →
      (s.busy = false →
        step s = .next { s with readData := s.winWord k, hostProg := ops, held := false, turns := r }) ∧
      (s.busy = true → step s = .next { s with held := true, turns := r }))

/-- 70_reset_and_hazards.md R102: which accesses are held while BUSY = 1, and what the others do; a held access takes
effect when BUSY = 0. -/
def Obligations.HoldsWhileBusy : Prop :=
  ∀ (s : State) (op : HostOp) (ops : List HostOp) (r : List Turn) (v : Word) (off : Nat),
    s.cfg.StandardPort → s.busy = true → s.hostProg = op :: ops → s.turns = .host :: r → off ≤ 0x7FC → off % 4 = 0 →
    (op = .wr (wordAt 0x000) v ∨ op = .wr (wordAt 0x004) v ∨ op = .rd (wordAt 0x014) ∨
      (0x400 ≤ off ∧ op = .rd (wordAt off)) → step s = .next { s with held := true, turns := r }) ∧
    (op = .rd (wordAt 0x004) →
      step s = .next { s with readData := s.status, hostProg := ops, held := false, turns := r }) ∧
    (op = .wr (wordAt 0x008) v → step s = .next { s with arg0 := v, hostProg := ops, held := false, turns := r }) ∧
    (op = .wr (wordAt 0x00C) v → step s = .next { s with arg1 := v, hostProg := ops, held := false, turns := r }) ∧
    (op = .wr (wordAt 0x010) v → step s = .next { s with arg2 := v, hostProg := ops, held := false, turns := r }) ∧
    (op = .rd (wordAt 0x008) →
      step s = .next { s with readData := s.arg0, hostProg := ops, held := false, turns := r }) ∧
    (op = .rd (wordAt 0x00C) →
      step s = .next { s with readData := s.arg1, hostProg := ops, held := false, turns := r }) ∧
    (op = .rd (wordAt 0x010) →
      step s = .next { s with readData := s.arg2, hostProg := ops, held := false, turns := r }) ∧
    (op = .rd (wordAt 0x000) ∨ (0x018 ≤ off ∧ off ≤ 0x3FC ∧ op = .rd (wordAt off)) →
      step s = .next { s with readData := 0#32, hostProg := ops, held := false, turns := r }) ∧
    (0x014 ≤ off ∧ op = .wr (wordAt off) v → step s = .next { s with hostProg := ops, held := false, turns := r }) ∧
    (∀ t : State, t.held = true → t.busy = false → t.hostProg = op :: ops → t.turns = .host :: r →
      step t = .next { t.hostPerform op with turns := r })

/-! ## Operands -/

/-- 30_encoding.md R49: the value of every operand, the coordinates at the COORD_BITS = 16 of 00_scope.md R5. -/
def Obligations.OperandValues : Prop :=
  ∀ s : State, s.cfg.coordBits = 16 →
    s.width.toNat = s.larg0.toNat % 65536 ∧ s.height.toNat = s.larg0.toNat / 65536 ∧
    (s.extIn = true ↔ s.larg2.toNat % 2 = 1) ∧
    s.point0.x = (if s.larg0.toNat % 65536 < 32768 then (s.larg0.toNat % 65536 : Int)
      else (s.larg0.toNat % 65536 : Int) - 65536) ∧
    s.point0.y = (if s.larg0.toNat / 65536 < 32768 then (s.larg0.toNat / 65536 : Int)
      else (s.larg0.toNat / 65536 : Int) - 65536) ∧
    s.point1.x = (if s.larg1.toNat % 65536 < 32768 then (s.larg1.toNat % 65536 : Int)
      else (s.larg1.toNat % 65536 : Int) - 65536) ∧
    s.point1.y = (if s.larg1.toNat / 65536 < 32768 then (s.larg1.toNat / 65536 : Int)
      else (s.larg1.toNat / 65536 : Int) - 65536) ∧
    (s.value = true ↔ s.larg2.toNat % 256 ≠ 0) ∧ s.level.toNat = s.larg2.toNat % 256 ∧
    s.flag.toNat = s.larg2.toNat % 2

/-- 30_encoding.md R50: the operand bits R49 does not name for a command never change what it does. -/
def Obligations.UnnamedOperandBitsAreIgnored : Prop :=
  ∀ (s : State) (a0 a1 a2 : Word),
    (∀ i : Instr, i = .clear ∨ i = .flush ∨ i = .powerOn ∨ i = .powerOff →
      exec i (s.withLargs a0 a1 a2) = mapNext (·.withLargs a0 a1 a2) (exec i s)) ∧
    (a2.toNat % 256 = s.larg2.toNat % 256 →
      exec .contrast (s.withLargs a0 a1 a2) = mapNext (·.withLargs a0 a1 a2) (exec .contrast s)) ∧
    (a2.toNat % 2 = s.larg2.toNat % 2 →
      exec .invert (s.withLargs a0 a1 a2) = mapNext (·.withLargs a0 a1 a2) (exec .invert s)) ∧
    (a0 = s.larg0 → (a2.toNat % 256 = 0 ↔ s.larg2.toNat % 256 = 0) →
      exec .setPixel (s.withLargs a0 a1 a2) = mapNext (·.withLargs a0 a1 a2) (exec .setPixel s)) ∧
    (a0 = s.larg0 → a1 = s.larg1 → (a2.toNat % 256 = 0 ↔ s.larg2.toNat % 256 = 0) →
      exec .drawLine (s.withLargs a0 a1 a2) = mapNext (·.withLargs a0 a1 a2) (exec .drawLine s)) ∧
    (a0 = s.larg0 → a2.toNat % 2 = s.larg2.toNat % 2 →
      exec .init (s.withLargs a0 a1 a2) = mapNext (·.withLargs a0 a1 a2) (exec .init s))

/-- 70_reset_and_hazards.md R103, 10_state.md R23: no write of an ARG register reaches the command that runs, whether the
engine does it in one move or one action at a time, its start among them. -/
def Obligations.ArgWritesNeverReachTheRunningCommand : Prop :=
  ∀ (i : Instr) (s : State) (as : List Action) (a0 a1 a2 : Word),
    exec i (s.withArgs a0 a1 a2) = mapNext (·.withArgs a0 a1 a2) (exec i s) ∧
    engineTurn (s.withArgs a0 a1 a2) = mapNext (·.withArgs a0 a1 a2) (engineTurn s) ∧
    microTurn (s.withArgs a0 a1 a2) = (microTurn s).withArgs a0 a1 a2 ∧
    microAction as (s.withArgs a0 a1 a2) = (microAction as s).withArgs a0 a1 a2

/-- 30_encoding.md R57: the operands of a pseudo-instruction reach the accepted command: after the host accesses of its
expansion on an idle block, the command is accepted with the operand values the host wrote; CLRERR clears the error and
is no command. The operand ranges are the model's (log 25), and the block's widths those of 00_scope.md R5. -/
def Obligations.AssembledOperandsReachTheCommand : Prop :=
  ∀ (s : State) (x y x1 y1 v w h e : Int), s.cfg.StandardPort → s.cfg.coordBits = 16 →
    s.busy = false → s.turns = [] →
    (-32768 ≤ x → x ≤ 32767 → -32768 ≤ y → y ≤ 32767 → (Pseudo.setPixel x y v).wf = true →
      s.hostProg = (Pseudo.setPixel x y v).expand →
      ∃ t, Host.Core.run core 3 s = .next t ∧ t.Accepted .setPixel ∧ t.point0 = ⟨x, y⟩ ∧
        (t.value = true ↔ v % 256 ≠ 0) ∧ t.hostProg = []) ∧
    ((Pseudo.init w h e).wf = true → s.hostProg = (Pseudo.init w h e).expand →
      ∃ t, Host.Core.run core 3 s = .next t ∧ t.Accepted .init ∧ (t.width.toNat : Int) = w ∧
        (t.height.toNat : Int) = h ∧ (t.extIn = true ↔ e % 2 = 1) ∧ t.hostProg = []) ∧
    (-32768 ≤ x → x ≤ 32767 → -32768 ≤ y → y ≤ 32767 → -32768 ≤ x1 → x1 ≤ 32767 → -32768 ≤ y1 → y1 ≤ 32767 →
      (Pseudo.drawLine x y x1 y1 v).wf = true → s.hostProg = (Pseudo.drawLine x y x1 y1 v).expand →
      ∃ t, Host.Core.run core 4 s = .next t ∧ t.Accepted .drawLine ∧ t.point0 = ⟨x, y⟩ ∧ t.point1 = ⟨x1, y1⟩ ∧
        (t.value = true ↔ v % 256 ≠ 0) ∧ t.hostProg = []) ∧
    ((Pseudo.contrast v).wf = true → s.hostProg = (Pseudo.contrast v).expand →
      ∃ t, Host.Core.run core 2 s = .next t ∧ t.Accepted .contrast ∧ (t.level.toNat : Int) = v % 256 ∧
        t.hostProg = []) ∧
    ((Pseudo.invert v).wf = true → s.hostProg = (Pseudo.invert v).expand →
      ∃ t, Host.Core.run core 2 s = .next t ∧ t.Accepted .invert ∧ (t.flag.toNat : Int) = v % 2 ∧ t.hostProg = []) ∧
    (∀ p i, (p = .clear ∧ i = .clear) ∨ (p = .flush ∧ i = .flush) ∨ (p = .powerOn ∧ i = .powerOn) ∨
      (p = .powerOff ∧ i = .powerOff) → s.hostProg = Pseudo.expand p →
      ∃ t, Host.Core.run core 1 s = .next t ∧ t.Accepted i ∧ t.hostProg = []) ∧
    (s.hostProg = Pseudo.clrErr.expand →
      Host.Core.run core 1 s = .next { s with err := false, errcode := 0#4, hostProg := [], held := false })

/-! ## Errors -/

/-- 60_exceptions.md R88: each command raises at most one error, the first that applies: ILLEGAL, then NOT_READY or
ALREADY_READY, then BAD_GEOMETRY, then TRANSPORT; a refused command changes nothing but the STATUS fields, whatever the
transport would answer. -/
def Obligations.ErrorPriority : Prop :=
  ∀ (s : State), s.busy = true → s.todo = none → s.pending = none →
    ((∃ e, decodeLatched s.lcmdHigh0 s.lcmd = .error e) → engineTurn s = .next (s.refusedWith 2#4)) ∧
    (∀ i, s.Accepted i → i ≠ .init → s.ready = false → engineTurn s = .next (s.refusedWith 3#4)) ∧
    (s.Accepted .init → s.ready = true → engineTurn s = .next (s.refusedWith 4#4)) ∧
    (s.Accepted .init → s.ready = false → geometryLegal s.cfg s.width.toNat s.height.toNat = false →
      engineTurn s = .next (s.refusedWith 5#4)) ∧
    (∀ i, s.Accepted i → (i ≠ .init → s.ready = true) →
      (i = .init → s.ready = false ∧ geometryLegal s.cfg s.width.toNat s.height.toNat = true) →
      ∃ t, engineTurn s = .next t ∧
        ((t.busy = true ∧ t.pending ≠ none ∧ t.err = s.err ∧ t.errcode = s.errcode ∧ t.lastfail = s.lastfail) ∨
         (t.busy = false ∧ t.err = s.err ∧ t.errcode = s.errcode ∧ t.lastfail = false) ∨
         (t.busy = false ∧ t.err = true ∧ t.errcode = 1#4 ∧ t.lastfail = true)))

/-- 20_memory.md R39: on FAIL the command ends with TRANSPORT at once and issues nothing more; on ACK the transaction is
carried and the command goes on from its progress point. -/
def Obligations.TransportAnswerEndsOrContinues : Prop :=
  ∀ (s : State) (x : Transaction) (r : List Turn), s.pending = some x →
    (s.turns = .answer .fail :: r → step s = .next { s with
      err := true, errcode := 1#4, lastfail := true, busy := false, todo := none, pending := none,
      bus := s.bus ++ [⟨x, .fail⟩], turns := r }) ∧
    (s.turns = .answer .ack :: r → step s = .next { s with
      pending := none, bus := s.bus ++ [⟨x, .ack⟩], turns := r })

/-- 60_exceptions.md R95: if the transport never answers, BUSY stays 1, nothing more is issued, a held access stays held,
and only reset ends the command. -/
def Obligations.UnansweredTransactionHangs : Prop :=
  ∀ (s : State), s.busy = true → s.pending ≠ none →
    ((∀ a r, s.turns ≠ .answer a :: r) → (∀ r, s.turns ≠ .reset :: r) →
      ∃ t, step s = .next t ∧ t.busy = true ∧ t.pending = s.pending ∧ t.todo = s.todo ∧ t.bus = s.bus ∧
        t.fb = s.fb ∧
        (s.held = true → (∃ op ops, s.hostProg = op :: ops ∧ op.holdable s.cfg = true) →
          t.held = true ∧ t.hostProg = s.hostProg)) ∧
    (∀ r, s.turns = .reset :: r → ∃ t, step s = .next t ∧ t.busy = false)

/-! ## Commands -/

/-- 40_init.md R59 to R61: INIT refused while READY = 1 or with an illegal geometry; with every transaction answered
ACK it latches W, H, EXT, zeroes the framebuffer, issues its 32 transactions in order and sets READY; at the first FAIL
it ends with TRANSPORT and READY stays 0; without an answer it waits, with exactly the later actions of the rule left:
after the k-th byte of InitSeq the other bytes, the clear and FlushBody, after a transaction of FlushBody the later ones,
and `READY <- 1` at the end. -/
def Obligations.InitSemantics : Prop :=
  ∀ (s : State) (rest : List Turn),
    let n := s.height.toNat / 8 * s.width.toNat
    let ps := initPayloads s.cfg s.width.toNat s.height.toNat s.extIn
    encode .init = 0x00000001#32 ∧ mnemonic .init = "INIT" ∧ Config.standard.maxW = 128 ∧ Config.standard.maxH = 64 ∧
    ps.length = 32 ∧
    (s.ready = true → exec .init s = .next (s.refusedWith 4#4)) ∧
    (s.ready = false →
      ¬ (1 ≤ s.width.toNat ∧ s.width.toNat ≤ s.cfg.maxW ∧ 8 ≤ s.height.toNat ∧ s.height.toNat ≤ s.cfg.maxH ∧
        s.height.toNat % 8 = 0) → exec .init s = .next (s.refusedWith 5#4)) ∧
    (s.ready = false →
      (1 ≤ s.width.toNat ∧ s.width.toNat ≤ s.cfg.maxW ∧ 8 ≤ s.height.toNat ∧ s.height.toNat ≤ s.cfg.maxH ∧
        s.height.toNat % 8 = 0) →
      (s.turns = acks 32 ++ rest →
        ∃ t, exec .init s = .next t ∧
          t = { s.done (carried s.cfg ps) rest with
            ready := true, w := s.width, h := s.height, ext := s.extIn, fb := t.fb } ∧
          ∀ i, t.fbRead i = if i < n then 0x00#8 else s.fbRead i) ∧
      (∀ k p, ps[k]? = some p → s.turns = acks k ++ .answer .fail :: rest →
        ∃ t, exec .init s = .next t ∧
          t = { s.failed (carried s.cfg (ps.take k) ++ [failedTx s.cfg p]) rest with
            w := s.width, h := s.height, ext := s.extIn, fb := t.fb } ∧
          ∀ i, t.fbRead i = if i < n then 0x00#8 else s.fbRead i) ∧
      (∀ k p, ps[k]? = some p → s.turns = acks k ++ rest → noAnswerNext rest →
        ∃ t, exec .init s = .next t ∧
          t = { s.sent (carried s.cfg (ps.take k)) rest with
            w := s.width, h := s.height, ext := s.extIn, fb := t.fb,
            pending := some ⟨s.cfg.devAddr, p⟩,
            todo := some (if k < 25 then
                (sendAll (initSeq s.cfg.ctrl s.width.toNat s.height.toNat s.extIn)).drop (k + 1) ++
                  .zeroFill :: flushBody s.cfg.ctrl s.width.toNat s.height.toNat ++ [.ready]
              else (flushBody s.cfg.ctrl s.width.toNat s.height.toNat).drop (k - 24) ++ [.ready]) } ∧
          ∀ i, t.fbRead i = if i < n then 0x00#8 else s.fbRead i))

/-- 40_init.md R62: after an INIT that ended with TRANSPORT the block is still uninitialised: nothing of it can be read,
every other command is refused with NOT_READY, and INIT may be issued again and completes. -/
def Obligations.FailedInitLeavesBlockUninitialised : Prop :=
  ∀ (s t : State) (k : Nat) (p : List Byte) (rest : List Turn),
    s.ready = false → geometryLegal s.cfg s.width.toNat s.height.toNat = true →
    (initPayloads s.cfg s.width.toNat s.height.toNat s.extIn)[k]? = some p →
    s.turns = acks k ++ .answer .fail :: rest → exec .init s = .next t →
    t.ready = false ∧ t.errcode = 1#4 ∧ t.geom = 0#32 ∧ t.extpwr = false ∧ (∀ j, t.winWord j = 0#32) ∧
    (∀ i, i ≠ .init → exec i t = .next (t.refusedWith 3#4)) ∧
    (∀ q, ∃ u, exec .init { t with turns := acks 32 ++ q } = .next u ∧ u.ready = true ∧ u.busy = false)

/-- 41_clear_flush.md R65: CLEAR writes 0 to exactly the bytes `0 .. PAGES*W - 1` and issues no transaction; NOT_READY
while READY = 0. -/
def Obligations.ClearSemantics : Prop :=
  encode .clear = 0x00000002#32 ∧ mnemonic .clear = "CLEAR" ∧
  ∀ s : State,
    (s.ready = false → exec .clear s = .next (s.refusedWith 3#4)) ∧
    (s.ready = true → ∃ t, exec .clear s = .next t ∧
      t = { s with lastfail := false, busy := false, todo := none, pending := none, fb := t.fb } ∧
      ∀ i, t.fbRead i = if i < s.h.toNat / 8 * s.w.toNat then 0x00#8 else s.fbRead i)

/-- 41_clear_flush.md R68, R69: FLUSH issues the six window bytes and then the framebuffer as one data transaction, in
order, and changes no block state but the STATUS result; at the first FAIL it ends with TRANSPORT, the framebuffer
unchanged and READY still 1; without an answer it waits, with exactly the later transactions of FlushBody left. -/
def Obligations.FlushSemantics : Prop :=
  ∀ (s : State) (rest : List Turn),
    let ps := cmdPayloads s.cfg (winSeq s.cfg.ctrl s.w.toNat s.h.toNat) ++
      [s.cfg.dataMarker :: (List.range (s.h.toNat / 8 * s.w.toNat)).map s.fbRead]
    encode .flush = 0x00000003#32 ∧ mnemonic .flush = "FLUSH" ∧
    (s.ready = false → exec .flush s = .next (s.refusedWith 3#4)) ∧
    (s.ready = true → s.turns = acks 7 ++ rest → exec .flush s = .next (s.done (carried s.cfg ps) rest)) ∧
    (s.ready = true → ∀ k p, ps[k]? = some p → s.turns = acks k ++ .answer .fail :: rest →
      exec .flush s = .next (s.failed (carried s.cfg (ps.take k) ++ [failedTx s.cfg p]) rest)) ∧
    (s.ready = true → ∀ k p, ps[k]? = some p → s.turns = acks k ++ rest → noAnswerNext rest →
      exec .flush s = .next { s.sent (carried s.cfg (ps.take k)) rest with
        pending := some ⟨s.cfg.devAddr, p⟩,
        todo := some ((flushBody s.cfg.ctrl s.w.toNat s.h.toNat).drop (k + 1)) })

/-- 20_memory.md R33: `FbSetBit` changes exactly one bit of the framebuffer or nothing, never raises an error, never
touches another bit of the byte, and issues no transaction. -/
def Obligations.FbSetBitChangesOneBitOrNothing : Prop :=
  ∀ (s : State) (p : Point) (v : Bool),
    s.fbSetBit p v = { s with fb := (s.fbSetBit p v).fb } ∧
    (¬ (0 ≤ p.x ∧ p.x < (s.w.toNat : Int) ∧ 0 ≤ p.y ∧ p.y < (s.h.toNat : Int)) → s.fbSetBit p v = s) ∧
    (0 ≤ p.x → p.x < (s.w.toNat : Int) → 0 ≤ p.y → p.y < (s.h.toNat : Int) →
      ∀ i b, b < 8 → ((s.fbSetBit p v).fbRead i).getLsbD b =
        if i = p.y.toNat / 8 * s.w.toNat + p.x.toNat ∧ b = p.y.toNat % 8 then v else (s.fbRead i).getLsbD b)

/-- 42_pixel_line.md R71: SET_PIXEL does one FbSetBit and issues no transaction; an out-of-range coordinate is no error;
NOT_READY while READY = 0. -/
def Obligations.SetPixelSemantics : Prop :=
  encode .setPixel = 0x00000004#32 ∧ mnemonic .setPixel = "SET_PIXEL" ∧
  ∀ s : State,
    (s.ready = false → exec .setPixel s = .next (s.refusedWith 3#4)) ∧
    (s.ready = true → ∃ t, exec .setPixel s = .next t ∧
      t = { s with lastfail := false, busy := false, todo := none, pending := none, fb := t.fb } ∧
      (¬ (0 ≤ s.point0.x ∧ s.point0.x < (s.w.toNat : Int) ∧ 0 ≤ s.point0.y ∧ s.point0.y < (s.h.toNat : Int)) →
        t.fb = s.fb) ∧
      (0 ≤ s.point0.x → s.point0.x < (s.w.toNat : Int) → 0 ≤ s.point0.y → s.point0.y < (s.h.toNat : Int) →
        ∀ i b, b < 8 → (t.fbRead i).getLsbD b =
          if i = s.point0.y.toNat / 8 * s.w.toNat + s.point0.x.toNat ∧ b = s.point0.y.toNat % 8 then s.value
          else (s.fbRead i).getLsbD b))

/-- 42_pixel_line.md R76, R78: after DRAW_LINE the bit of every in-range point of LINE_ALG is VALUE and every other bit
of the framebuffer is unchanged; no transaction is issued; NOT_READY while READY = 0. -/
def Obligations.DrawLineSetsExactlyThePath : Prop :=
  encode .drawLine = 0x00000005#32 ∧ mnemonic .drawLine = "DRAW_LINE" ∧
  ∀ s : State,
    (s.ready = false → exec .drawLine s = .next (s.refusedWith 3#4)) ∧
    (s.ready = true → ∃ t, exec .drawLine s = .next t ∧
      t = { s with lastfail := false, busy := false, todo := none, pending := none, fb := t.fb } ∧
      ∀ i b, b < 8 →
        ((∃ p ∈ linePoints s.cfg.lineAlg s.point0 s.point1,
            (0 ≤ p.x ∧ p.x < (s.w.toNat : Int) ∧ 0 ≤ p.y ∧ p.y < (s.h.toNat : Int)) ∧
            i = p.y.toNat / 8 * s.w.toNat + p.x.toNat ∧ b = p.y.toNat % 8) →
          (t.fbRead i).getLsbD b = s.value) ∧
        ((¬ ∃ p ∈ linePoints s.cfg.lineAlg s.point0 s.point1,
            (0 ≤ p.x ∧ p.x < (s.w.toNat : Int) ∧ 0 ≤ p.y ∧ p.y < (s.h.toNat : Int)) ∧
            i = p.y.toNat / 8 * s.w.toNat + p.x.toNat ∧ b = p.y.toNat % 8) →
          (t.fbRead i).getLsbD b = (s.fbRead i).getLsbD b))

/-- 42_pixel_line.md R78: what is drawn depends on the set of in-range points only; drawings with the same VALUE commute;
with different VALUEs the later one wins on the pixels they share. -/
def Obligations.DrawingDependsOnThePointSetOnly : Prop :=
  ∀ (s : State) (ps qs : List Point) (u v : Bool),
    ((∀ p, s.inRange p = true → (p ∈ ps ↔ p ∈ qs)) → ∀ i, (s.drawAll ps v).fbRead i = (s.drawAll qs v).fbRead i) ∧
    (∀ i, ((s.drawAll ps v).drawAll qs v).fbRead i = ((s.drawAll qs v).drawAll ps v).fbRead i) ∧
    (∀ q ∈ qs, s.inRange q = true →
      ((s.drawAll ps u).drawAll qs v).pixel q.x.toNat q.y.toNat = v)

/-- 42_pixel_line.md R73 (a), (b): every LINE_ALG of the configuration begins and ends at the end points, is a single
point when they are equal, and has no gaps; of the reference rasterizer this is R75 (3). That `LineAlg.other n` is any
algorithm of which nothing else is known is the model's choice (log 5, DESIGN CHOICE). -/
def Obligations.LineAlgorithmConforms : Prop :=
  ∀ (alg : LineAlg) (p q : Point),
    (linePoints alg p q).head? = some p ∧ (linePoints alg p q).getLast? = some q ∧
    (p = q → linePoints alg p q = [p]) ∧
    ∀ k a b, (linePoints alg p q)[k]? = some a → (linePoints alg p q)[k + 1]? = some b →
      max (b.x - a.x).natAbs (b.y - a.y).natAbs = 1

/-- 42_pixel_line.md R75 (2): the reference rasterizer returns exactly `max(|x1 - x0|, |y1 - y0|) + 1` points, all
distinct. -/
def Obligations.ReferenceLinePointCount : Prop :=
  ∀ p q : Point,
    (refLine p q).length = max (q.x - p.x).natAbs (q.y - p.y).natAbs + 1 ∧ (refLine p q).Nodup

/-- 42_pixel_line.md R75 (1): the inner `while` of the reference rasterizer runs at most once in each iteration, so the
model's `if` draws the same points (log 20). -/
def Obligations.InnerWhileRunsAtMostOnce : Prop :=
  ∀ (fuel : Nat) (steep : Bool) (sx sy dx dy : Int) (n : Nat) (a b : Int),
    1 ≤ fuel → 0 ≤ dy → dy ≤ dx → 0 < dx →
    refLoopWhile fuel steep sx sy dx dy n a b (2 * dy - dx) = refLoop steep sx sy dx dy n a b (2 * dy - dx)

/-- 43_passthrough.md R79: CONTRAST sends SET_CONTRAST and then LEVEL, and changes no block state but the STATUS result;
if the first transaction fails the second is not issued; without an answer it waits with that transaction outstanding, and
only what follows it is left; NOT_READY while READY = 0. -/
def Obligations.ContrastSemantics : Prop :=
  ∀ (s : State) (rest : List Turn),
    encode .contrast = 0x00000006#32 ∧ mnemonic .contrast = "CONTRAST" ∧ Ctrl.standard.setContrast = 0x81#8 ∧
    (s.ready = false → exec .contrast s = .next (s.refusedWith 3#4)) ∧
    (s.ready = true → s.turns = .answer .ack :: .answer .ack :: rest →
      exec .contrast s = .next (s.done
        [⟨⟨s.cfg.devAddr, [s.cfg.cmdMarker, s.cfg.ctrl.setContrast]⟩, .ack⟩,
         ⟨⟨s.cfg.devAddr, [s.cfg.cmdMarker, s.larg2.extractLsb' 0 8]⟩, .ack⟩] rest)) ∧
    (s.ready = true → s.turns = .answer .ack :: .answer .fail :: rest →
      exec .contrast s = .next (s.failed
        [⟨⟨s.cfg.devAddr, [s.cfg.cmdMarker, s.cfg.ctrl.setContrast]⟩, .ack⟩,
         ⟨⟨s.cfg.devAddr, [s.cfg.cmdMarker, s.larg2.extractLsb' 0 8]⟩, .fail⟩] rest)) ∧
    (s.ready = true → s.turns = .answer .fail :: rest →
      exec .contrast s = .next (s.failed
        [⟨⟨s.cfg.devAddr, [s.cfg.cmdMarker, s.cfg.ctrl.setContrast]⟩, .fail⟩] rest)) ∧
    (s.ready = true → noAnswerNext s.turns →
      exec .contrast s = .next { s with
        pending := some ⟨s.cfg.devAddr, [s.cfg.cmdMarker, s.cfg.ctrl.setContrast]⟩,
        todo := some [.sendCmd (s.larg2.extractLsb' 0 8)] }) ∧
    (s.ready = true → s.turns = .answer .ack :: rest → noAnswerNext rest →
      exec .contrast s = .next {
        s.sent [⟨⟨s.cfg.devAddr, [s.cfg.cmdMarker, s.cfg.ctrl.setContrast]⟩, .ack⟩] rest with
          pending := some ⟨s.cfg.devAddr, [s.cfg.cmdMarker, s.larg2.extractLsb' 0 8]⟩, todo := some [] })

/-- 43_passthrough.md R80: INVERT sends one byte, NORM_INV OR FLAG, of which only ARG2 bit 0 counts; without an answer it waits
with that transaction outstanding and nothing but its end left. -/
def Obligations.InvertSemantics : Prop :=
  ∀ (s : State) (rest : List Turn),
    let b := s.cfg.ctrl.normInv ||| (if s.larg2.getLsbD 0 then 1#8 else 0#8)
    encode .invert = 0x00000007#32 ∧ mnemonic .invert = "INVERT" ∧ Ctrl.standard.normInv = 0xA6#8 ∧
    (s.ready = false → exec .invert s = .next (s.refusedWith 3#4)) ∧
    (s.ready = true → s.turns = .answer .ack :: rest →
      exec .invert s = .next (s.done [⟨⟨s.cfg.devAddr, [s.cfg.cmdMarker, b]⟩, .ack⟩] rest)) ∧
    (s.ready = true → s.turns = .answer .fail :: rest →
      exec .invert s = .next (s.failed [⟨⟨s.cfg.devAddr, [s.cfg.cmdMarker, b]⟩, .fail⟩] rest)) ∧
    (s.ready = true → noAnswerNext s.turns →
      exec .invert s = .next { s with pending := some ⟨s.cfg.devAddr, [s.cfg.cmdMarker, b]⟩, todo := some [] })

/-- 43_passthrough.md R81, R82: POWER_ON sends DISP_ON and POWER_OFF sends DISP_OFF; the block itself keeps all its
state; without an answer each waits with its transaction outstanding and nothing but its end left. -/
def Obligations.PowerCommandSemantics : Prop :=
  ∀ (s : State) (rest : List Turn),
    encode .powerOn = 0x00000008#32 ∧ mnemonic .powerOn = "POWER_ON" ∧ Ctrl.standard.dispOn = 0xAF#8 ∧
    encode .powerOff = 0x00000009#32 ∧ mnemonic .powerOff = "POWER_OFF" ∧ Ctrl.standard.dispOff = 0xAE#8 ∧
    (s.ready = false → exec .powerOn s = .next (s.refusedWith 3#4) ∧ exec .powerOff s = .next (s.refusedWith 3#4)) ∧
    (s.ready = true → s.turns = .answer .ack :: rest →
      exec .powerOn s =
        .next (s.done [⟨⟨s.cfg.devAddr, [s.cfg.cmdMarker, s.cfg.ctrl.dispOn]⟩, .ack⟩] rest) ∧
      exec .powerOff s =
        .next (s.done [⟨⟨s.cfg.devAddr, [s.cfg.cmdMarker, s.cfg.ctrl.dispOff]⟩, .ack⟩] rest)) ∧
    (s.ready = true → s.turns = .answer .fail :: rest →
      exec .powerOn s =
        .next (s.failed [⟨⟨s.cfg.devAddr, [s.cfg.cmdMarker, s.cfg.ctrl.dispOn]⟩, .fail⟩] rest) ∧
      exec .powerOff s =
        .next (s.failed [⟨⟨s.cfg.devAddr, [s.cfg.cmdMarker, s.cfg.ctrl.dispOff]⟩, .fail⟩] rest)) ∧
    (s.ready = true → noAnswerNext s.turns →
      exec .powerOn s = .next { s with
        pending := some ⟨s.cfg.devAddr, [s.cfg.cmdMarker, s.cfg.ctrl.dispOn]⟩, todo := some [] } ∧
      exec .powerOff s = .next { s with
        pending := some ⟨s.cfg.devAddr, [s.cfg.cmdMarker, s.cfg.ctrl.dispOff]⟩, todo := some [] })

/-- 43_passthrough.md R83: the four pass-throughs change no block state but BUSY and the STATUS result fields, whatever
the transport answers. -/
def Obligations.PassThroughsChangeNoBlockState : Prop :=
  ∀ (i : Instr) (s t : State), i = .contrast ∨ i = .invert ∨ i = .powerOn ∨ i = .powerOff →
    exec i s = .next t →
    t = { s with busy := t.busy, err := t.err, errcode := t.errcode, lastfail := t.lastfail, todo := t.todo,
                 pending := t.pending, bus := t.bus, turns := t.turns }

/-! ## Controller bytes and transactions -/

/-- 30_encoding.md R53, R54, R55: the 25 bytes of InitSeq with the default CTRL. -/
def Obligations.InitSequenceBytes : Prop :=
  ∀ (w h : Nat) (ext : Bool), 8 ≤ h →
    initSeq Ctrl.standard w h ext =
      [0xAE#8, 0x20#8, 0x00#8, 0x40#8, 0xA1#8, 0xA8#8, BitVec.ofNat 8 ((h - 1) % 256), 0xC8#8, 0xD3#8, 0x00#8, 0xDA#8,
       (if w > 2 * h then 0x02#8 else 0x12#8), 0xD5#8, 0x80#8, 0xD9#8, (if ext = true then 0x22#8 else 0xF1#8), 0xDB#8,
       0x30#8, 0x81#8, 0xFF#8, 0xA4#8, 0xA6#8, 0x8D#8, (if ext = true then 0x10#8 else 0x14#8), 0xAF#8]

/-- 30_encoding.md R56, 41_clear_flush.md R67: the six bytes of WinSeq with the default CTRL; only `W = 64` exactly is
shifted, and with `W <= 128`, `c1 <= 127`. -/
def Obligations.FlushWindowBytes : Prop :=
  ∀ w h : Nat, 1 ≤ w → w ≤ 128 → 8 ≤ h → h ≤ 64 → h % 8 = 0 →
    ∃ c0 c1 p1 : Byte, winSeq Ctrl.standard w h = [0x21#8, c0, c1, 0x22#8, 0x00#8, p1] ∧
      c0.toNat = (if w = 64 then 32 else 0) ∧ c1.toNat = w - 1 + (if w = 64 then 32 else 0) ∧ c1.toNat ≤ 127 ∧
      p1.toNat = h / 8 - 1

/-- 70_reset_and_hazards.md R105: how many transactions and payload bytes each command issues when every one is answered
ACK. -/
def Obligations.TransactionAndByteCounts : Prop :=
  ∀ (i : Instr) (s t : State) (k : Nat) (rest : List Turn),
    s.busy = true → s.turns = acks k ++ rest → exec i s = .next t → t.busy = false → t.lastfail = false →
    t.turns = rest →
    ∃ ended, t.bus = s.bus ++ ended ∧ ended.length = k ∧
      (i = .init → k = 32 ∧
        (ended.map (·.tx.payload.length)).sum = 63 + s.height.toNat / 8 * s.width.toNat) ∧
      (i = .flush → k = 7 ∧ (ended.map (·.tx.payload.length)).sum = 13 + s.h.toNat / 8 * s.w.toNat) ∧
      (i = .contrast → k = 2 ∧ (ended.map (·.tx.payload.length)).sum = 4) ∧
      (i = .invert ∨ i = .powerOn ∨ i = .powerOff → k = 1 ∧ (ended.map (·.tx.payload.length)).sum = 2) ∧
      (i = .clear ∨ i = .setPixel ∨ i = .drawLine → k = 0)

/-- 20_memory.md R45, an assumption of the environment (log 19): with the window of FLUSH, data byte `PixIndex(x, y)`
lands at page `y div 8`, column `x + OFF`. -/
def Obligations.ReceiverGetsTheFramebufferOneToOne : Prop :=
  ∀ w h x y : Nat, 1 ≤ w → w ≤ 128 → 8 ≤ h → h ≤ 64 → h % 8 = 0 → x < w → y < h →
    ∃ win, windowOf Ctrl.standard (winSeq Ctrl.standard w h) = some win ∧
      win.page (pixIndex w x y) = y / 8 ∧ win.column (pixIndex w x y) = x + (if w = 64 then 32 else 0)

/-! ## Framebuffer layout -/

/-- 20_memory.md R30: pixel `(x, y)` is bit `y mod 8` of byte `PixIndex(x, y)`, the in-range pixels are mapped one-to-one onto the bits of bytes `0 .. PAGES*W - 1`, and the
framebuffer fits in FB_CAP bytes. -/
def Obligations.PixelLayoutIsOneToOne : Prop :=
  ∀ (c : Config) (w h : Nat), h % 8 = 0 →
    (∀ x y, x < w → y < h → pixIndex w x y = y / 8 * w + x ∧ pixIndex w x y < h / 8 * w) ∧
    (∀ x y x' y', x < w → y < h → x' < w → y' < h → pixIndex w x y = pixIndex w x' y' → y % 8 = y' % 8 →
      x = x' ∧ y = y') ∧
    (∀ i b, i < h / 8 * w → b < 8 → ∃ x y, x < w ∧ y < h ∧ pixIndex w x y = i ∧ y % 8 = b) ∧
    (c.fbCap = c.maxW * c.maxH / 8 ∧ (w ≤ c.maxW → h ≤ c.maxH → h / 8 * w ≤ c.fbCap)) ∧
    ∀ (s : State) (x y : Nat), s.pixel x y = (s.fbRead (y / 8 * s.w.toNat + x)).getLsbD (y % 8)

/-! ## Reset -/

/-- 10_state.md R24: what reset leaves, and what the host then reads. -/
def Obligations.ResetLeavesTheResetValues : Prop :=
  State.reset.AtReset ∧
  ∀ (s : State) (r : List Turn), s.turns = .reset :: r → ∃ t, step s = .next t ∧ t.AtReset

/-- 70_reset_and_hazards.md R97: reset during a command ends it without completion or error; the outstanding transaction
is abandoned and a later answer to it is ignored; a held write is discarded and a held read returns 0. What the history
`bus` records is the model's choice (log 9, DESIGN CHOICE), and so is a late answer as a turn of its own (log 10, DESIGN
CHOICE). -/
def Obligations.ResetEndsTheCommandAtOnce : Prop :=
  ∀ (s : State) (r : List Turn),
    (s.turns = .reset :: r → ∃ t, step s = .next t ∧ t.AtReset ∧ t.held = false ∧ t.turns = r ∧
      (∀ x, s.pending = some x → t.bus = s.bus ++ [⟨x, .abandoned⟩]) ∧ (s.pending = none → t.bus = s.bus) ∧
      (s.held = false → t.hostProg = s.hostProg ∧ t.readData = s.readData) ∧
      (∀ k v ops, s.held = true → s.hostProg = .wr k v :: ops → t.hostProg = ops ∧ t.readData = s.readData) ∧
      (∀ k ops, s.held = true → s.hostProg = .rd k :: ops → t.hostProg = ops ∧ t.readData = 0#32)) ∧
    (∀ a, s.turns = .lateAnswer a :: r → step s = .next { s with turns := r })

/-- 70_reset_and_hazards.md R98: while READY = 0, STATUS shows at most BUSY and the error fields, GEOM and every FBWIN
word read 0, every command but INIT ends with NOT_READY, and nothing is sent but by INIT. -/
def Obligations.NothingIsSeenBeforeInit : Prop :=
  ∀ s : State, s.ready = false →
    s.status.getLsbD 1 = false ∧ s.status.getLsbD 3 = false ∧ s.geom = 0#32 ∧ (∀ k, s.winWord k = 0#32) ∧
    ∀ i, i ≠ .init → exec i s = .next (s.refusedWith 3#4)

/-! ## The whole machine -/

/-- The invariant holds right after reset, whatever the host is to do and in whatever order the agents move. -/
def Obligations.InvariantHoldsAtReset : Prop :=
  State.reset.Inv ∧ ∀ (prog : List HostOp) (order : List Turn), (State.loaded prog order).Inv

/-- The invariant `State.Inv` (canonical framebuffer inside FB_CAP; a legal geometry and a written framebuffer while
READY = 1, 10_state.md R20, R21; ERRCODE 0 exactly when ERR = 0 and at most 5, R14, 60_exceptions.md R85; nothing
outstanding while BUSY = 0; the actions left are those of a decoded command, and write the framebuffer only if it is one of
the four of 20_memory.md R32; only holdable accesses held) is kept by every step. -/
def Obligations.InvariantKeptByEveryStep : Prop :=
  ∀ s t : State, s.Inv → step s = .next t → t.Inv

/-- No step ends in a fault or a refusal: no access and no command stops the block (20_memory.md R28, 60_exceptions.md
R91; log 17). -/
def Obligations.EveryStepAnswersANextState : Prop :=
  ∀ s : State, ∃ t, step s = .next t

/-- 20_memory.md R32: the host has no path that writes the framebuffer; it changes only through INIT, CLEAR, SET_PIXEL
and DRAW_LINE (and is unspecified again after reset). The last clause says it of every step, an engine move that goes on
after a wait and a single action included: while the invariant `State.Inv` holds, a step other than a reset changes the
framebuffer only where BUSY = 1 and the latched command is one of the four. -/
def Obligations.OnlyFourCommandsWriteTheFramebuffer : Prop :=
  (∀ s : State, (hostTurn s).fb = s.fb) ∧
  (∀ (a : Answer) (s : State), (answerTurn a s).fb = s.fb) ∧
  (∀ (i : Instr) (s t : State), exec i s = .next t → t.fb ≠ s.fb →
    i = .init ∨ i = .clear ∨ i = .setPixel ∨ i = .drawLine) ∧
  (∀ s t : State, s.Inv → step s = .next t → (∀ r, s.turns ≠ .reset :: r) → t.fb ≠ s.fb →
    s.busy = true ∧ ∃ i, decodeLatched s.lcmdHigh0 s.lcmd = .ok i ∧
      (i = .init ∨ i = .clear ∨ i = .setPixel ∨ i = .drawLine))

/-- 40_init.md R63: INIT while READY = 1 raises ALREADY_READY and changes nothing else, and from the first successful INIT
on READY, W, H and EXT are fixed until reset. -/
def Obligations.GeometryIsFixedUntilReset : Prop :=
  ∀ s t : State, s.ready = true →
    exec .init s = .next (s.refusedWith 4#4) ∧
    (step s = .next t → (∀ r, s.turns ≠ .reset :: r) →
      t.ready = true ∧ t.w = s.w ∧ t.h = s.h ∧ t.ext = s.ext)

/-- 10_state.md R21: no step but reset changes a framebuffer byte at or above `PAGES * W`, and no host read shows one.
The premise is the model's invariant `State.Inv`. -/
def Obligations.BytesAboveTheFrameAreNeverWritten : Prop :=
  ∀ s t : State, s.Inv → step s = .next t → (∀ r, s.turns ≠ .reset :: r) →
    ∀ i, t.h.toNat / 8 * t.w.toNat ≤ i → t.fbRead i = s.fbRead i ∧ t.winByte i = 0x00#8

/-- 20_memory.md R40: at most one transaction is outstanding and only the engine issues one: while one is outstanding no
step puts another in its place, and a step that is not the engine's leaves the outstanding transaction as it was or none.
What has left stays: the port's history, which is the model's own record (log 9, DESIGN CHOICE), only grows, and by at most
the outstanding transaction in a step that is not the engine's. -/
def Obligations.BusHistoryOnlyGrows : Prop :=
  ∀ s t : State, step s = .next t →
    (∃ more, t.bus = s.bus ++ more) ∧
    (∀ q r, s.turns = q :: r → q ≠ .engine →
      t.bus = s.bus ∨ ∃ x res, s.pending = some x ∧ t.bus = s.bus ++ [⟨x, res⟩]) ∧
    (∀ q r, s.turns = q :: r → q ≠ .engine → q ≠ .micro → t.pending = s.pending ∨ t.pending = none) ∧
    (s.busy = false ∨ s.pending ≠ none → t.pending = s.pending ∨ t.pending = none)

/-- The implementation parameters are configuration, not state (10_state.md R10): no step changes them (log 7). -/
def Obligations.ConfigurationNeverChanges : Prop :=
  ∀ s t : State, step s = .next t → t.cfg = s.cfg

/-- 20_memory.md R42 at the level of the model's steps: the engine moving one action at a time, with the transport
answering each transaction ACK as soon as it is issued, reaches exactly the state of its one move with the same answers.
The two granularities are the model's choice (log 2, DESIGN CHOICE). A move that waits and goes on later is
`WaitingCommandGoesOn`. -/
def Obligations.OneActionAtATimeEqualsOneMove : Prop :=
  ∀ (as : List Action) (s : State) (rest : List Turn),
    s.busy = true → s.todo = some as → s.pending = none →
    Host.Core.run core (microTurns as).length { s with turns := microTurns as ++ rest } =
      Host.Core.run core 1 { s with turns := .engine :: acks (txCount as) ++ rest }

/-- 70_reset_and_hazards.md R106, R105: every command ends, with `complete()` or an error, provided the transport answers
every transaction it is given; 32 answers are enough for any of them, whatever the answers are. -/
def Obligations.EveryCommandEndsOnceAnswered : Prop :=
  ∀ (i : Instr) (s : State) (answers : List Answer) (rest : List Turn), 32 ≤ answers.length →
    ∃ t, exec i { s with turns := answers.map .answer ++ rest } = .next t ∧ t.busy = false ∧ t.todo = none ∧
      t.pending = none

/-! ## Waiting and going on -/

/-- 20_memory.md R36, R40 (the engine waits until the answer, and the next transaction follows an ACK) at the level of the
model's moves (logs 1 and 2, DESIGN CHOICE): a command that waits for every one of its answers and goes on after each
reaches exactly the state it reaches when the same answers come at once. It holds for a command that runs and for one that
is about to begin, for every number of its transactions, and for an ACK or a FAIL to the last of them. -/
def Obligations.WaitingCommandGoesOn : Prop :=
  ∀ (s : State) (as : List Action) (n : Nat) (a : Answer) (rest : List Turn),
    s.busy = true → s.pending = none →
    (s.todo = some as ∨ ∃ i, s.Accepted i ∧ (startCommand i s).todo = some as) → n < txCount as →
    Host.Core.run core (3 * (n + 1) + 1)
        { s with turns := .engine :: waitTurns (List.replicate n .ack ++ [a]) ++ rest } =
      Host.Core.run core 1 { s with turns := .engine :: acks n ++ .answer a :: rest }

/-! ## CMD and the host's wait -/

/-- 10_state.md R13: a read of CMD returns 0 and has no side effect, BUSY or not; a write while BUSY = 1 is held; a write
while BUSY = 0 submits the command, latching its opcode (R23), and the engine then decodes `v[7:0]` as OPCODE and requires
`v[31:8] = 0`. -/
def Obligations.CmdRegisterSubmitsAndReadsZero : Prop :=
  ∀ (s : State) (v : Word) (ops : List HostOp) (r q : List Turn), s.cfg.StandardPort → s.turns = .host :: r →
    (s.hostProg = .rd (wordAt 0x000) :: ops →
      step s = .next { s with readData := 0#32, hostProg := ops, held := false, turns := r }) ∧
    (s.hostProg = .wr (wordAt 0x000) v :: ops → s.busy = true → step s = .next { s with held := true, turns := r }) ∧
    (s.hostProg = .wr (wordAt 0x000) v :: ops → s.busy = false → ∃ t, step s = .next t ∧
      t = { s with
        busy := true, lcmd := v.extractLsb' 0 8, lcmdHigh0 := decide (v.extractLsb' 8 24 = 0#24),
        larg0 := s.arg0, larg1 := s.arg1, larg2 := s.arg2, todo := none, pending := none,
        hostProg := ops, held := false, turns := r } ∧
      (∀ i : Instr, v.extractLsb' 8 24 = 0#24 → v.extractLsb' 0 8 = i.opcode →
        step { t with turns := .engine :: q } = exec i { t with turns := q }) ∧
      (v.extractLsb' 8 24 ≠ 0#24 →
        step { t with turns := .engine :: q } = .next ({ t with turns := q }.refusedWith 2#4)))

/-- 30_encoding.md R57: `wait` repeats `rd STATUS` until BUSY reads 0. That each host turn does one such read is log 3
(DEDUCED). -/
def Obligations.HostWaitPollsStatus : Prop :=
  ∀ (s : State) (ops : List HostOp) (r : List Turn),
    s.cfg.StandardPort → s.hostProg = .wait :: ops → s.turns = .host :: r →
    (s.busy = true → step s = .next { s with readData := s.status, turns := r }) ∧
    (s.busy = false → step s = .next { s with readData := s.status, hostProg := ops, held := false, turns := r })

/-! ## Parameters -/

/-- 00_scope.md R5: the parameters this spec fixes for this hardware, in `Config.standard`. LINE_ALG is not one of them:
R5 leaves it OPEN, and that `Config.standard` names the reference rasterizer is the default the model takes (log 5, DESIGN
CHOICE), no claim about the hardware's own algorithm. That State.reset carries `Config.standard` in its field `cfg` is the
model's choice (log 7, DESIGN CHOICE). The CTRL table, stated byte by byte in InitSequenceBytes, FlushWindowBytes and the
pass-through statements, and the marker bytes are log 6 (PRESUMED). -/
def Obligations.ParametersOfThisHardware : Prop :=
  State.reset.cfg = Config.standard ∧ Config.standard.maxW = 128 ∧ Config.standard.maxH = 64 ∧
  Config.standard.fbCap = 1024 ∧ Config.standard.devAddr = 0x3C#7 ∧ Config.standard.cmdMarker = 0x80#8 ∧
  Config.standard.dataMarker = 0x40#8 ∧ Config.standard.ctrl = Ctrl.standard ∧
  Config.standard.lineAlg = .reference ∧ Config.standard.coordBits = 16 ∧ Config.standard.hostDataBits = 32 ∧
  Config.standard.hostAddrBits = 11 ∧ Config.standard.StandardPort

/-- What the three width parameters of 00_scope.md R5 do at any value is the model's choice (log 22, DESIGN CHOICE): a
coordinate is the two's complement number in the COORD_BITS low bits of its field, a host read returns no bit at or above
the host data width, a host write stores none, and an access reaches the word its offset names in the host address
width. -/
def Obligations.WidthsAreConfiguration : Prop :=
  ∀ (c : Config) (s : State) (k : WordIndex) (v : Word),
    (∀ field : BitVec 16, 1 ≤ c.coordBits → c.coordBits ≤ 16 →
      -(2 ^ (c.coordBits - 1) : Int) ≤ coordinate c field ∧ coordinate c field < 2 ^ (c.coordBits - 1) ∧
      (2 ^ c.coordBits : Int) ∣ (field.toNat : Int) - coordinate c field) ∧
    (s.hostValue k).toNat < 2 ^ s.cfg.hostDataBits ∧
    (portReg s.cfg k = .arg0 → (s.hostStore k v).arg0.toNat = v.toNat % 2 ^ s.cfg.hostDataBits) ∧
    (portIndex c k).toNat = 4 * k.toNat % 2 ^ c.hostAddrBits / 4
end

