-- ==== Sys2Proof/Laws/Memory.lean ====
section
/-!
SUPPORT. The laws of the framebuffer RAM: read after write, read after fill, and that every operation keeps the
canonical form.
-/

namespace Sys2Proof.Machine

@[simp] theorem read?_nil (k : Nat) : Memory.read? [] k = none := rfl

theorem read?_cons (a : Nat) (b : Byte) (m : Memory) (k : Nat) :
    Memory.read? ((a, b) :: m) k = if a = k then some b else m.read? k := rfl

/-- Read after write: the byte written at its address, the old one elsewhere. -/
theorem read?_write (m : Memory) (k : Nat) (v : Byte) (j : Nat) :
    (m.write k v).read? j = if j = k then some v else m.read? j := by
  induction m with
  | nil => by_cases h : k = j <;> simp [Memory.write, Memory.read?, h, eq_comm]
  | cons c m ih =>
    obtain ⟨a, b⟩ := c
    unfold Memory.write
    split
    · rw [read?_cons]
      simp only [eq_comm (a := k)]
    · split
      · rename_i h
        subst h
        simp only [read?_cons, eq_comm (a := k)]
        split <;> rfl
      · rename_i h
        rw [read?_cons, read?_cons, ih]
        by_cases hj : j = k
        · simp [hj, Ne.symm h]
        · simp [hj]

theorem read?_write_same (m : Memory) (k : Nat) (v : Byte) : (m.write k v).read? k = some v := by
  simp [read?_write]

theorem read?_write_other (m : Memory) (k : Nat) (v : Byte) (j : Nat) (h : j ≠ k) :
    (m.write k v).read? j = m.read? j := by simp [read?_write, h]

theorem mem_write (m : Memory) (k : Nat) (v : Byte) (c : Host.Cell) (h : c ∈ m.write k v) :
    c = (k, v) ∨ c ∈ m := by
  induction m with
  | nil => simpa [Memory.write] using h
  | cons d m ih =>
    obtain ⟨a, b⟩ := d
    unfold Memory.write at h
    split at h
    · simpa using h
    · split at h <;> simp only [List.mem_cons] at h ⊢ <;> tauto

theorem wf_write (m : Memory) (k : Nat) (v : Byte) (h : m.wf) : (m.write k v).wf := by
  induction m with
  | nil => simp [Memory.write, Memory.wf]
  | cons d m ih =>
    obtain ⟨a, b⟩ := d
    obtain ⟨hd, htl⟩ := List.pairwise_cons.mp h
    unfold Memory.write
    split
    · rename_i hk
      refine List.pairwise_cons.mpr ⟨fun c hc => ?_, h⟩
      rcases List.mem_cons.mp hc with rfl | hc
      · exact hk
      · exact Nat.lt_trans hk (hd c hc)
    · split
      · rename_i hk
        exact List.pairwise_cons.mpr ⟨fun c hc => hk ▸ hd c hc, htl⟩
      · rename_i h1 h2
        refine List.pairwise_cons.mpr ⟨fun c hc => ?_, ih htl⟩
        rcases mem_write m k v c hc with rfl | hc
        · simp only at h1 h2 ⊢; omega
        · exact hd c hc

theorem read?_append (m m' : Memory) (j : Nat) :
    Memory.read? (m ++ m') j = (m.read? j).or (Memory.read? m' j) := by
  induction m with
  | nil => simp
  | cons c m ih =>
    obtain ⟨a, b⟩ := c
    by_cases h : a = j <;> simp [Memory.read?, h, ih]

theorem read?_mapConst (l : List Nat) (v : Byte) (j : Nat) :
    Memory.read? (l.map fun i => (i, v)) j = if j ∈ l then some v else none := by
  induction l with
  | nil => simp
  | cons a l ih =>
    by_cases h : a = j
    · simp [Memory.read?, h]
    · simp [Memory.read?, h, ih, Ne.symm h]

theorem read?_filterGe (m : Memory) (n j : Nat) :
    Memory.read? (m.filter fun c => decide (n ≤ c.1)) j = if n ≤ j then m.read? j else none := by
  induction m with
  | nil => simp
  | cons c m ih =>
    obtain ⟨a, b⟩ := c
    by_cases h : n ≤ a
    · by_cases hj : a = j
      · subst hj; simp [Memory.read?, h]
      · simp [Memory.read?, h, hj, ih]
    · have : ¬ (n ≤ j ∧ a = j) := by omega
      by_cases hj : n ≤ j
      · have : a ≠ j := by omega
        simp [Memory.read?, h, hj, ih, this]
      · simp [h, hj, ih]

/-- Read after fill: the fill byte below `n`, the old byte from `n` on. -/
theorem read?_fill (m : Memory) (n : Nat) (v : Byte) (j : Nat) :
    (m.fill n v).read? j = if j < n then some v else m.read? j := by
  rw [Memory.fill, read?_append, read?_mapConst, read?_filterGe]
  by_cases h : j < n
  · simp [h]
  · simp [h, Nat.le_of_not_lt h]

theorem mem_fill (m : Memory) (n : Nat) (v : Byte) (c : Host.Cell) (h : c ∈ m.fill n v) :
    c.1 < n ∨ c ∈ m := by
  rcases List.mem_append.mp h with h | h
  · obtain ⟨i, hi, rfl⟩ := List.mem_map.mp h
    exact .inl (List.mem_range.mp hi)
  · exact .inr (List.mem_filter.mp h).1

theorem wf_fill (m : Memory) (n : Nat) (v : Byte) (h : m.wf) : (m.fill n v).wf := by
  refine List.pairwise_append.mpr ⟨?_, h.filter _, ?_⟩
  · exact List.pairwise_map.mpr List.pairwise_lt_range
  · intro c hc d hd
    obtain ⟨i, hi, rfl⟩ := List.mem_map.mp hc
    have h1 := List.mem_range.mp hi
    have h2 := (List.mem_filter.mp hd).2
    simp only [decide_eq_true_eq] at h2
    simp only; omega

end Sys2Proof.Machine
end

