-- ==== Sys2Proof/Laws/State.lean ====
section
/-!
SUPPORT. What each named update of the state does to each field: one lemma per field per update, so that no proof
unfolds a record update.
-/

namespace Sys2Proof.Machine

/-! ## plan -/

@[simp] theorem plan_ready (s : State) (as : List Action) : (s.plan as).ready = s.ready := rfl
@[simp] theorem plan_w (s : State) (as : List Action) : (s.plan as).w = s.w := rfl
@[simp] theorem plan_h (s : State) (as : List Action) : (s.plan as).h = s.h := rfl
@[simp] theorem plan_ext (s : State) (as : List Action) : (s.plan as).ext = s.ext := rfl
@[simp] theorem plan_fb (s : State) (as : List Action) : (s.plan as).fb = s.fb := rfl
@[simp] theorem plan_busy (s : State) (as : List Action) : (s.plan as).busy = s.busy := rfl
@[simp] theorem plan_err (s : State) (as : List Action) : (s.plan as).err = s.err := rfl
@[simp] theorem plan_errcode (s : State) (as : List Action) : (s.plan as).errcode = s.errcode := rfl
@[simp] theorem plan_lastfail (s : State) (as : List Action) : (s.plan as).lastfail = s.lastfail := rfl
@[simp] theorem plan_arg0 (s : State) (as : List Action) : (s.plan as).arg0 = s.arg0 := rfl
@[simp] theorem plan_arg1 (s : State) (as : List Action) : (s.plan as).arg1 = s.arg1 := rfl
@[simp] theorem plan_arg2 (s : State) (as : List Action) : (s.plan as).arg2 = s.arg2 := rfl
@[simp] theorem plan_lcmd (s : State) (as : List Action) : (s.plan as).lcmd = s.lcmd := rfl
@[simp] theorem plan_lcmdHigh0 (s : State) (as : List Action) : (s.plan as).lcmdHigh0 = s.lcmdHigh0 := rfl
@[simp] theorem plan_larg0 (s : State) (as : List Action) : (s.plan as).larg0 = s.larg0 := rfl
@[simp] theorem plan_larg1 (s : State) (as : List Action) : (s.plan as).larg1 = s.larg1 := rfl
@[simp] theorem plan_larg2 (s : State) (as : List Action) : (s.plan as).larg2 = s.larg2 := rfl
@[simp] theorem plan_todo (s : State) (as : List Action) : (s.plan as).todo = some as := rfl
@[simp] theorem plan_pending (s : State) (as : List Action) : (s.plan as).pending = s.pending := rfl
@[simp] theorem plan_held (s : State) (as : List Action) : (s.plan as).held = s.held := rfl
@[simp] theorem plan_cfg (s : State) (as : List Action) : (s.plan as).cfg = s.cfg := rfl
@[simp] theorem plan_fbEpoch (s : State) (as : List Action) : (s.plan as).fbEpoch = s.fbEpoch := rfl
@[simp] theorem plan_bus (s : State) (as : List Action) : (s.plan as).bus = s.bus := rfl
@[simp] theorem plan_hostProg (s : State) (as : List Action) : (s.plan as).hostProg = s.hostProg := rfl
@[simp] theorem plan_readData (s : State) (as : List Action) : (s.plan as).readData = s.readData := rfl
@[simp] theorem plan_turns (s : State) (as : List Action) : (s.plan as).turns = s.turns := rfl

/-! ## raise -/

@[simp] theorem raise_ready (s : State) (c : ErrCode) : (s.raise c).ready = s.ready := rfl
@[simp] theorem raise_w (s : State) (c : ErrCode) : (s.raise c).w = s.w := rfl
@[simp] theorem raise_h (s : State) (c : ErrCode) : (s.raise c).h = s.h := rfl
@[simp] theorem raise_ext (s : State) (c : ErrCode) : (s.raise c).ext = s.ext := rfl
@[simp] theorem raise_fb (s : State) (c : ErrCode) : (s.raise c).fb = s.fb := rfl
@[simp] theorem raise_busy (s : State) (c : ErrCode) : (s.raise c).busy = false := rfl
@[simp] theorem raise_err (s : State) (c : ErrCode) : (s.raise c).err = true := rfl
@[simp] theorem raise_errcode (s : State) (c : ErrCode) : (s.raise c).errcode = c.code := rfl
@[simp] theorem raise_lastfail (s : State) (c : ErrCode) : (s.raise c).lastfail = true := rfl
@[simp] theorem raise_arg0 (s : State) (c : ErrCode) : (s.raise c).arg0 = s.arg0 := rfl
@[simp] theorem raise_arg1 (s : State) (c : ErrCode) : (s.raise c).arg1 = s.arg1 := rfl
@[simp] theorem raise_arg2 (s : State) (c : ErrCode) : (s.raise c).arg2 = s.arg2 := rfl
@[simp] theorem raise_lcmd (s : State) (c : ErrCode) : (s.raise c).lcmd = s.lcmd := rfl
@[simp] theorem raise_lcmdHigh0 (s : State) (c : ErrCode) : (s.raise c).lcmdHigh0 = s.lcmdHigh0 := rfl
@[simp] theorem raise_larg0 (s : State) (c : ErrCode) : (s.raise c).larg0 = s.larg0 := rfl
@[simp] theorem raise_larg1 (s : State) (c : ErrCode) : (s.raise c).larg1 = s.larg1 := rfl
@[simp] theorem raise_larg2 (s : State) (c : ErrCode) : (s.raise c).larg2 = s.larg2 := rfl
@[simp] theorem raise_todo (s : State) (c : ErrCode) : (s.raise c).todo = none := rfl
@[simp] theorem raise_pending (s : State) (c : ErrCode) : (s.raise c).pending = none := rfl
@[simp] theorem raise_held (s : State) (c : ErrCode) : (s.raise c).held = s.held := rfl
@[simp] theorem raise_cfg (s : State) (c : ErrCode) : (s.raise c).cfg = s.cfg := rfl
@[simp] theorem raise_fbEpoch (s : State) (c : ErrCode) : (s.raise c).fbEpoch = s.fbEpoch := rfl
@[simp] theorem raise_bus (s : State) (c : ErrCode) : (s.raise c).bus = s.bus := rfl
@[simp] theorem raise_hostProg (s : State) (c : ErrCode) : (s.raise c).hostProg = s.hostProg := rfl
@[simp] theorem raise_readData (s : State) (c : ErrCode) : (s.raise c).readData = s.readData := rfl
@[simp] theorem raise_turns (s : State) (c : ErrCode) : (s.raise c).turns = s.turns := rfl

/-! ## complete -/

@[simp] theorem complete_ready (s : State) : s.complete.ready = s.ready := rfl
@[simp] theorem complete_w (s : State) : s.complete.w = s.w := rfl
@[simp] theorem complete_h (s : State) : s.complete.h = s.h := rfl
@[simp] theorem complete_ext (s : State) : s.complete.ext = s.ext := rfl
@[simp] theorem complete_fb (s : State) : s.complete.fb = s.fb := rfl
@[simp] theorem complete_busy (s : State) : s.complete.busy = false := rfl
@[simp] theorem complete_err (s : State) : s.complete.err = s.err := rfl
@[simp] theorem complete_errcode (s : State) : s.complete.errcode = s.errcode := rfl
@[simp] theorem complete_lastfail (s : State) : s.complete.lastfail = false := rfl
@[simp] theorem complete_arg0 (s : State) : s.complete.arg0 = s.arg0 := rfl
@[simp] theorem complete_arg1 (s : State) : s.complete.arg1 = s.arg1 := rfl
@[simp] theorem complete_arg2 (s : State) : s.complete.arg2 = s.arg2 := rfl
@[simp] theorem complete_lcmd (s : State) : s.complete.lcmd = s.lcmd := rfl
@[simp] theorem complete_lcmdHigh0 (s : State) : s.complete.lcmdHigh0 = s.lcmdHigh0 := rfl
@[simp] theorem complete_larg0 (s : State) : s.complete.larg0 = s.larg0 := rfl
@[simp] theorem complete_larg1 (s : State) : s.complete.larg1 = s.larg1 := rfl
@[simp] theorem complete_larg2 (s : State) : s.complete.larg2 = s.larg2 := rfl
@[simp] theorem complete_todo (s : State) : s.complete.todo = none := rfl
@[simp] theorem complete_pending (s : State) : s.complete.pending = none := rfl
@[simp] theorem complete_held (s : State) : s.complete.held = s.held := rfl
@[simp] theorem complete_cfg (s : State) : s.complete.cfg = s.cfg := rfl
@[simp] theorem complete_fbEpoch (s : State) : s.complete.fbEpoch = s.fbEpoch := rfl
@[simp] theorem complete_bus (s : State) : s.complete.bus = s.bus := rfl
@[simp] theorem complete_hostProg (s : State) : s.complete.hostProg = s.hostProg := rfl
@[simp] theorem complete_readData (s : State) : s.complete.readData = s.readData := rfl
@[simp] theorem complete_turns (s : State) : s.complete.turns = s.turns := rfl

/-! ## completeInit -/

@[simp] theorem completeInit_ready (s : State) : s.completeInit.ready = true := rfl
@[simp] theorem completeInit_w (s : State) : s.completeInit.w = s.w := rfl
@[simp] theorem completeInit_h (s : State) : s.completeInit.h = s.h := rfl
@[simp] theorem completeInit_ext (s : State) : s.completeInit.ext = s.ext := rfl
@[simp] theorem completeInit_fb (s : State) : s.completeInit.fb = s.fb := rfl
@[simp] theorem completeInit_busy (s : State) : s.completeInit.busy = false := rfl
@[simp] theorem completeInit_err (s : State) : s.completeInit.err = s.err := rfl
@[simp] theorem completeInit_errcode (s : State) : s.completeInit.errcode = s.errcode := rfl
@[simp] theorem completeInit_lastfail (s : State) : s.completeInit.lastfail = false := rfl
@[simp] theorem completeInit_arg0 (s : State) : s.completeInit.arg0 = s.arg0 := rfl
@[simp] theorem completeInit_arg1 (s : State) : s.completeInit.arg1 = s.arg1 := rfl
@[simp] theorem completeInit_arg2 (s : State) : s.completeInit.arg2 = s.arg2 := rfl
@[simp] theorem completeInit_lcmd (s : State) : s.completeInit.lcmd = s.lcmd := rfl
@[simp] theorem completeInit_lcmdHigh0 (s : State) : s.completeInit.lcmdHigh0 = s.lcmdHigh0 := rfl
@[simp] theorem completeInit_larg0 (s : State) : s.completeInit.larg0 = s.larg0 := rfl
@[simp] theorem completeInit_larg1 (s : State) : s.completeInit.larg1 = s.larg1 := rfl
@[simp] theorem completeInit_larg2 (s : State) : s.completeInit.larg2 = s.larg2 := rfl
@[simp] theorem completeInit_todo (s : State) : s.completeInit.todo = none := rfl
@[simp] theorem completeInit_pending (s : State) : s.completeInit.pending = none := rfl
@[simp] theorem completeInit_held (s : State) : s.completeInit.held = s.held := rfl
@[simp] theorem completeInit_cfg (s : State) : s.completeInit.cfg = s.cfg := rfl
@[simp] theorem completeInit_fbEpoch (s : State) : s.completeInit.fbEpoch = s.fbEpoch := rfl
@[simp] theorem completeInit_bus (s : State) : s.completeInit.bus = s.bus := rfl
@[simp] theorem completeInit_hostProg (s : State) : s.completeInit.hostProg = s.hostProg := rfl
@[simp] theorem completeInit_readData (s : State) : s.completeInit.readData = s.readData := rfl
@[simp] theorem completeInit_turns (s : State) : s.completeInit.turns = s.turns := rfl

/-! ## clearErr -/

@[simp] theorem clearErr_ready (s : State) : s.clearErr.ready = s.ready := rfl
@[simp] theorem clearErr_w (s : State) : s.clearErr.w = s.w := rfl
@[simp] theorem clearErr_h (s : State) : s.clearErr.h = s.h := rfl
@[simp] theorem clearErr_ext (s : State) : s.clearErr.ext = s.ext := rfl
@[simp] theorem clearErr_fb (s : State) : s.clearErr.fb = s.fb := rfl
@[simp] theorem clearErr_busy (s : State) : s.clearErr.busy = s.busy := rfl
@[simp] theorem clearErr_err (s : State) : s.clearErr.err = false := rfl
@[simp] theorem clearErr_errcode (s : State) : s.clearErr.errcode = 0#4 := rfl
@[simp] theorem clearErr_lastfail (s : State) : s.clearErr.lastfail = s.lastfail := rfl
@[simp] theorem clearErr_arg0 (s : State) : s.clearErr.arg0 = s.arg0 := rfl
@[simp] theorem clearErr_arg1 (s : State) : s.clearErr.arg1 = s.arg1 := rfl
@[simp] theorem clearErr_arg2 (s : State) : s.clearErr.arg2 = s.arg2 := rfl
@[simp] theorem clearErr_lcmd (s : State) : s.clearErr.lcmd = s.lcmd := rfl
@[simp] theorem clearErr_lcmdHigh0 (s : State) : s.clearErr.lcmdHigh0 = s.lcmdHigh0 := rfl
@[simp] theorem clearErr_larg0 (s : State) : s.clearErr.larg0 = s.larg0 := rfl
@[simp] theorem clearErr_larg1 (s : State) : s.clearErr.larg1 = s.larg1 := rfl
@[simp] theorem clearErr_larg2 (s : State) : s.clearErr.larg2 = s.larg2 := rfl
@[simp] theorem clearErr_todo (s : State) : s.clearErr.todo = s.todo := rfl
@[simp] theorem clearErr_pending (s : State) : s.clearErr.pending = s.pending := rfl
@[simp] theorem clearErr_held (s : State) : s.clearErr.held = s.held := rfl
@[simp] theorem clearErr_cfg (s : State) : s.clearErr.cfg = s.cfg := rfl
@[simp] theorem clearErr_fbEpoch (s : State) : s.clearErr.fbEpoch = s.fbEpoch := rfl
@[simp] theorem clearErr_bus (s : State) : s.clearErr.bus = s.bus := rfl
@[simp] theorem clearErr_hostProg (s : State) : s.clearErr.hostProg = s.hostProg := rfl
@[simp] theorem clearErr_readData (s : State) : s.clearErr.readData = s.readData := rfl
@[simp] theorem clearErr_turns (s : State) : s.clearErr.turns = s.turns := rfl

/-! ## accept -/

@[simp] theorem accept_ready (s : State) (v : Word) : (s.accept v).ready = s.ready := rfl
@[simp] theorem accept_w (s : State) (v : Word) : (s.accept v).w = s.w := rfl
@[simp] theorem accept_h (s : State) (v : Word) : (s.accept v).h = s.h := rfl
@[simp] theorem accept_ext (s : State) (v : Word) : (s.accept v).ext = s.ext := rfl
@[simp] theorem accept_fb (s : State) (v : Word) : (s.accept v).fb = s.fb := rfl
@[simp] theorem accept_busy (s : State) (v : Word) : (s.accept v).busy = true := rfl
@[simp] theorem accept_err (s : State) (v : Word) : (s.accept v).err = s.err := rfl
@[simp] theorem accept_errcode (s : State) (v : Word) : (s.accept v).errcode = s.errcode := rfl
@[simp] theorem accept_lastfail (s : State) (v : Word) : (s.accept v).lastfail = s.lastfail := rfl
@[simp] theorem accept_arg0 (s : State) (v : Word) : (s.accept v).arg0 = s.arg0 := rfl
@[simp] theorem accept_arg1 (s : State) (v : Word) : (s.accept v).arg1 = s.arg1 := rfl
@[simp] theorem accept_arg2 (s : State) (v : Word) : (s.accept v).arg2 = s.arg2 := rfl
@[simp] theorem accept_lcmd (s : State) (v : Word) : (s.accept v).lcmd = v.extractLsb' 0 8 := rfl
@[simp] theorem accept_lcmdHigh0 (s : State) (v : Word) : (s.accept v).lcmdHigh0 = reservedZero v := rfl
@[simp] theorem accept_larg0 (s : State) (v : Word) : (s.accept v).larg0 = s.arg0 := rfl
@[simp] theorem accept_larg1 (s : State) (v : Word) : (s.accept v).larg1 = s.arg1 := rfl
@[simp] theorem accept_larg2 (s : State) (v : Word) : (s.accept v).larg2 = s.arg2 := rfl
@[simp] theorem accept_todo (s : State) (v : Word) : (s.accept v).todo = none := rfl
@[simp] theorem accept_pending (s : State) (v : Word) : (s.accept v).pending = none := rfl
@[simp] theorem accept_held (s : State) (v : Word) : (s.accept v).held = s.held := rfl
@[simp] theorem accept_cfg (s : State) (v : Word) : (s.accept v).cfg = s.cfg := rfl
@[simp] theorem accept_fbEpoch (s : State) (v : Word) : (s.accept v).fbEpoch = s.fbEpoch := rfl
@[simp] theorem accept_bus (s : State) (v : Word) : (s.accept v).bus = s.bus := rfl
@[simp] theorem accept_hostProg (s : State) (v : Word) : (s.accept v).hostProg = s.hostProg := rfl
@[simp] theorem accept_readData (s : State) (v : Word) : (s.accept v).readData = s.readData := rfl
@[simp] theorem accept_turns (s : State) (v : Word) : (s.accept v).turns = s.turns := rfl

/-! ## issue -/

@[simp] theorem issue_ready (s : State) (p : List Byte) (as : List Action) : (s.issue p as).ready = s.ready := rfl
@[simp] theorem issue_w (s : State) (p : List Byte) (as : List Action) : (s.issue p as).w = s.w := rfl
@[simp] theorem issue_h (s : State) (p : List Byte) (as : List Action) : (s.issue p as).h = s.h := rfl
@[simp] theorem issue_ext (s : State) (p : List Byte) (as : List Action) : (s.issue p as).ext = s.ext := rfl
@[simp] theorem issue_fb (s : State) (p : List Byte) (as : List Action) : (s.issue p as).fb = s.fb := rfl
@[simp] theorem issue_busy (s : State) (p : List Byte) (as : List Action) : (s.issue p as).busy = s.busy := rfl
@[simp] theorem issue_err (s : State) (p : List Byte) (as : List Action) : (s.issue p as).err = s.err := rfl
@[simp] theorem issue_errcode (s : State) (p : List Byte) (as : List Action) : (s.issue p as).errcode = s.errcode := rfl
@[simp] theorem issue_lastfail (s : State) (p : List Byte) (as : List Action) : (s.issue p as).lastfail = s.lastfail := rfl
@[simp] theorem issue_arg0 (s : State) (p : List Byte) (as : List Action) : (s.issue p as).arg0 = s.arg0 := rfl
@[simp] theorem issue_arg1 (s : State) (p : List Byte) (as : List Action) : (s.issue p as).arg1 = s.arg1 := rfl
@[simp] theorem issue_arg2 (s : State) (p : List Byte) (as : List Action) : (s.issue p as).arg2 = s.arg2 := rfl
@[simp] theorem issue_lcmd (s : State) (p : List Byte) (as : List Action) : (s.issue p as).lcmd = s.lcmd := rfl
@[simp] theorem issue_lcmdHigh0 (s : State) (p : List Byte) (as : List Action) : (s.issue p as).lcmdHigh0 = s.lcmdHigh0 := rfl
@[simp] theorem issue_larg0 (s : State) (p : List Byte) (as : List Action) : (s.issue p as).larg0 = s.larg0 := rfl
@[simp] theorem issue_larg1 (s : State) (p : List Byte) (as : List Action) : (s.issue p as).larg1 = s.larg1 := rfl
@[simp] theorem issue_larg2 (s : State) (p : List Byte) (as : List Action) : (s.issue p as).larg2 = s.larg2 := rfl
@[simp] theorem issue_todo (s : State) (p : List Byte) (as : List Action) : (s.issue p as).todo = some as := rfl
@[simp] theorem issue_pending (s : State) (p : List Byte) (as : List Action) : (s.issue p as).pending = some ⟨s.cfg.devAddr, p⟩ := rfl
@[simp] theorem issue_held (s : State) (p : List Byte) (as : List Action) : (s.issue p as).held = s.held := rfl
@[simp] theorem issue_cfg (s : State) (p : List Byte) (as : List Action) : (s.issue p as).cfg = s.cfg := rfl
@[simp] theorem issue_fbEpoch (s : State) (p : List Byte) (as : List Action) : (s.issue p as).fbEpoch = s.fbEpoch := rfl
@[simp] theorem issue_bus (s : State) (p : List Byte) (as : List Action) : (s.issue p as).bus = s.bus := rfl
@[simp] theorem issue_hostProg (s : State) (p : List Byte) (as : List Action) : (s.issue p as).hostProg = s.hostProg := rfl
@[simp] theorem issue_readData (s : State) (p : List Byte) (as : List Action) : (s.issue p as).readData = s.readData := rfl
@[simp] theorem issue_turns (s : State) (p : List Byte) (as : List Action) : (s.issue p as).turns = s.turns := rfl

/-! ## setGeometry -/

@[simp] theorem setGeometry_ready (s : State) (x y : BitVec 16) (e : Bool) : (s.setGeometry x y e).ready = s.ready := rfl
@[simp] theorem setGeometry_w (s : State) (x y : BitVec 16) (e : Bool) : (s.setGeometry x y e).w = x := rfl
@[simp] theorem setGeometry_h (s : State) (x y : BitVec 16) (e : Bool) : (s.setGeometry x y e).h = y := rfl
@[simp] theorem setGeometry_ext (s : State) (x y : BitVec 16) (e : Bool) : (s.setGeometry x y e).ext = e := rfl
@[simp] theorem setGeometry_fb (s : State) (x y : BitVec 16) (e : Bool) : (s.setGeometry x y e).fb = s.fb := rfl
@[simp] theorem setGeometry_busy (s : State) (x y : BitVec 16) (e : Bool) : (s.setGeometry x y e).busy = s.busy := rfl
@[simp] theorem setGeometry_err (s : State) (x y : BitVec 16) (e : Bool) : (s.setGeometry x y e).err = s.err := rfl
@[simp] theorem setGeometry_errcode (s : State) (x y : BitVec 16) (e : Bool) : (s.setGeometry x y e).errcode = s.errcode := rfl
@[simp] theorem setGeometry_lastfail (s : State) (x y : BitVec 16) (e : Bool) : (s.setGeometry x y e).lastfail = s.lastfail := rfl
@[simp] theorem setGeometry_arg0 (s : State) (x y : BitVec 16) (e : Bool) : (s.setGeometry x y e).arg0 = s.arg0 := rfl
@[simp] theorem setGeometry_arg1 (s : State) (x y : BitVec 16) (e : Bool) : (s.setGeometry x y e).arg1 = s.arg1 := rfl
@[simp] theorem setGeometry_arg2 (s : State) (x y : BitVec 16) (e : Bool) : (s.setGeometry x y e).arg2 = s.arg2 := rfl
@[simp] theorem setGeometry_lcmd (s : State) (x y : BitVec 16) (e : Bool) : (s.setGeometry x y e).lcmd = s.lcmd := rfl
@[simp] theorem setGeometry_lcmdHigh0 (s : State) (x y : BitVec 16) (e : Bool) : (s.setGeometry x y e).lcmdHigh0 = s.lcmdHigh0 := rfl
@[simp] theorem setGeometry_larg0 (s : State) (x y : BitVec 16) (e : Bool) : (s.setGeometry x y e).larg0 = s.larg0 := rfl
@[simp] theorem setGeometry_larg1 (s : State) (x y : BitVec 16) (e : Bool) : (s.setGeometry x y e).larg1 = s.larg1 := rfl
@[simp] theorem setGeometry_larg2 (s : State) (x y : BitVec 16) (e : Bool) : (s.setGeometry x y e).larg2 = s.larg2 := rfl
@[simp] theorem setGeometry_todo (s : State) (x y : BitVec 16) (e : Bool) : (s.setGeometry x y e).todo = s.todo := rfl
@[simp] theorem setGeometry_pending (s : State) (x y : BitVec 16) (e : Bool) : (s.setGeometry x y e).pending = s.pending := rfl
@[simp] theorem setGeometry_held (s : State) (x y : BitVec 16) (e : Bool) : (s.setGeometry x y e).held = s.held := rfl
@[simp] theorem setGeometry_cfg (s : State) (x y : BitVec 16) (e : Bool) : (s.setGeometry x y e).cfg = s.cfg := rfl
@[simp] theorem setGeometry_fbEpoch (s : State) (x y : BitVec 16) (e : Bool) : (s.setGeometry x y e).fbEpoch = s.fbEpoch := rfl
@[simp] theorem setGeometry_bus (s : State) (x y : BitVec 16) (e : Bool) : (s.setGeometry x y e).bus = s.bus := rfl
@[simp] theorem setGeometry_hostProg (s : State) (x y : BitVec 16) (e : Bool) : (s.setGeometry x y e).hostProg = s.hostProg := rfl
@[simp] theorem setGeometry_readData (s : State) (x y : BitVec 16) (e : Bool) : (s.setGeometry x y e).readData = s.readData := rfl
@[simp] theorem setGeometry_turns (s : State) (x y : BitVec 16) (e : Bool) : (s.setGeometry x y e).turns = s.turns := rfl

/-! ## fbWrite -/

@[simp] theorem fbWrite_ready (s : State) (i : Nat) (v : Byte) : (s.fbWrite i v).ready = s.ready := rfl
@[simp] theorem fbWrite_w (s : State) (i : Nat) (v : Byte) : (s.fbWrite i v).w = s.w := rfl
@[simp] theorem fbWrite_h (s : State) (i : Nat) (v : Byte) : (s.fbWrite i v).h = s.h := rfl
@[simp] theorem fbWrite_ext (s : State) (i : Nat) (v : Byte) : (s.fbWrite i v).ext = s.ext := rfl
@[simp] theorem fbWrite_fb (s : State) (i : Nat) (v : Byte) : (s.fbWrite i v).fb = s.fb.write i v := rfl
@[simp] theorem fbWrite_busy (s : State) (i : Nat) (v : Byte) : (s.fbWrite i v).busy = s.busy := rfl
@[simp] theorem fbWrite_err (s : State) (i : Nat) (v : Byte) : (s.fbWrite i v).err = s.err := rfl
@[simp] theorem fbWrite_errcode (s : State) (i : Nat) (v : Byte) : (s.fbWrite i v).errcode = s.errcode := rfl
@[simp] theorem fbWrite_lastfail (s : State) (i : Nat) (v : Byte) : (s.fbWrite i v).lastfail = s.lastfail := rfl
@[simp] theorem fbWrite_arg0 (s : State) (i : Nat) (v : Byte) : (s.fbWrite i v).arg0 = s.arg0 := rfl
@[simp] theorem fbWrite_arg1 (s : State) (i : Nat) (v : Byte) : (s.fbWrite i v).arg1 = s.arg1 := rfl
@[simp] theorem fbWrite_arg2 (s : State) (i : Nat) (v : Byte) : (s.fbWrite i v).arg2 = s.arg2 := rfl
@[simp] theorem fbWrite_lcmd (s : State) (i : Nat) (v : Byte) : (s.fbWrite i v).lcmd = s.lcmd := rfl
@[simp] theorem fbWrite_lcmdHigh0 (s : State) (i : Nat) (v : Byte) : (s.fbWrite i v).lcmdHigh0 = s.lcmdHigh0 := rfl
@[simp] theorem fbWrite_larg0 (s : State) (i : Nat) (v : Byte) : (s.fbWrite i v).larg0 = s.larg0 := rfl
@[simp] theorem fbWrite_larg1 (s : State) (i : Nat) (v : Byte) : (s.fbWrite i v).larg1 = s.larg1 := rfl
@[simp] theorem fbWrite_larg2 (s : State) (i : Nat) (v : Byte) : (s.fbWrite i v).larg2 = s.larg2 := rfl
@[simp] theorem fbWrite_todo (s : State) (i : Nat) (v : Byte) : (s.fbWrite i v).todo = s.todo := rfl
@[simp] theorem fbWrite_pending (s : State) (i : Nat) (v : Byte) : (s.fbWrite i v).pending = s.pending := rfl
@[simp] theorem fbWrite_held (s : State) (i : Nat) (v : Byte) : (s.fbWrite i v).held = s.held := rfl
@[simp] theorem fbWrite_cfg (s : State) (i : Nat) (v : Byte) : (s.fbWrite i v).cfg = s.cfg := rfl
@[simp] theorem fbWrite_fbEpoch (s : State) (i : Nat) (v : Byte) : (s.fbWrite i v).fbEpoch = s.fbEpoch := rfl
@[simp] theorem fbWrite_bus (s : State) (i : Nat) (v : Byte) : (s.fbWrite i v).bus = s.bus := rfl
@[simp] theorem fbWrite_hostProg (s : State) (i : Nat) (v : Byte) : (s.fbWrite i v).hostProg = s.hostProg := rfl
@[simp] theorem fbWrite_readData (s : State) (i : Nat) (v : Byte) : (s.fbWrite i v).readData = s.readData := rfl
@[simp] theorem fbWrite_turns (s : State) (i : Nat) (v : Byte) : (s.fbWrite i v).turns = s.turns := rfl

/-! ## zeroFill -/

@[simp] theorem zeroFill_ready (s : State) : s.zeroFill.ready = s.ready := rfl
@[simp] theorem zeroFill_w (s : State) : s.zeroFill.w = s.w := rfl
@[simp] theorem zeroFill_h (s : State) : s.zeroFill.h = s.h := rfl
@[simp] theorem zeroFill_ext (s : State) : s.zeroFill.ext = s.ext := rfl
@[simp] theorem zeroFill_fb (s : State) : s.zeroFill.fb = s.fb.fill s.frameBytes 0x00#8 := rfl
@[simp] theorem zeroFill_busy (s : State) : s.zeroFill.busy = s.busy := rfl
@[simp] theorem zeroFill_err (s : State) : s.zeroFill.err = s.err := rfl
@[simp] theorem zeroFill_errcode (s : State) : s.zeroFill.errcode = s.errcode := rfl
@[simp] theorem zeroFill_lastfail (s : State) : s.zeroFill.lastfail = s.lastfail := rfl
@[simp] theorem zeroFill_arg0 (s : State) : s.zeroFill.arg0 = s.arg0 := rfl
@[simp] theorem zeroFill_arg1 (s : State) : s.zeroFill.arg1 = s.arg1 := rfl
@[simp] theorem zeroFill_arg2 (s : State) : s.zeroFill.arg2 = s.arg2 := rfl
@[simp] theorem zeroFill_lcmd (s : State) : s.zeroFill.lcmd = s.lcmd := rfl
@[simp] theorem zeroFill_lcmdHigh0 (s : State) : s.zeroFill.lcmdHigh0 = s.lcmdHigh0 := rfl
@[simp] theorem zeroFill_larg0 (s : State) : s.zeroFill.larg0 = s.larg0 := rfl
@[simp] theorem zeroFill_larg1 (s : State) : s.zeroFill.larg1 = s.larg1 := rfl
@[simp] theorem zeroFill_larg2 (s : State) : s.zeroFill.larg2 = s.larg2 := rfl
@[simp] theorem zeroFill_todo (s : State) : s.zeroFill.todo = s.todo := rfl
@[simp] theorem zeroFill_pending (s : State) : s.zeroFill.pending = s.pending := rfl
@[simp] theorem zeroFill_held (s : State) : s.zeroFill.held = s.held := rfl
@[simp] theorem zeroFill_cfg (s : State) : s.zeroFill.cfg = s.cfg := rfl
@[simp] theorem zeroFill_fbEpoch (s : State) : s.zeroFill.fbEpoch = s.fbEpoch := rfl
@[simp] theorem zeroFill_bus (s : State) : s.zeroFill.bus = s.bus := rfl
@[simp] theorem zeroFill_hostProg (s : State) : s.zeroFill.hostProg = s.hostProg := rfl
@[simp] theorem zeroFill_readData (s : State) : s.zeroFill.readData = s.readData := rfl
@[simp] theorem zeroFill_turns (s : State) : s.zeroFill.turns = s.turns := rfl

/-! ## hostAdvance -/

@[simp] theorem hostAdvance_ready (s : State) : s.hostAdvance.ready = s.ready := rfl
@[simp] theorem hostAdvance_w (s : State) : s.hostAdvance.w = s.w := rfl
@[simp] theorem hostAdvance_h (s : State) : s.hostAdvance.h = s.h := rfl
@[simp] theorem hostAdvance_ext (s : State) : s.hostAdvance.ext = s.ext := rfl
@[simp] theorem hostAdvance_fb (s : State) : s.hostAdvance.fb = s.fb := rfl
@[simp] theorem hostAdvance_busy (s : State) : s.hostAdvance.busy = s.busy := rfl
@[simp] theorem hostAdvance_err (s : State) : s.hostAdvance.err = s.err := rfl
@[simp] theorem hostAdvance_errcode (s : State) : s.hostAdvance.errcode = s.errcode := rfl
@[simp] theorem hostAdvance_lastfail (s : State) : s.hostAdvance.lastfail = s.lastfail := rfl
@[simp] theorem hostAdvance_arg0 (s : State) : s.hostAdvance.arg0 = s.arg0 := rfl
@[simp] theorem hostAdvance_arg1 (s : State) : s.hostAdvance.arg1 = s.arg1 := rfl
@[simp] theorem hostAdvance_arg2 (s : State) : s.hostAdvance.arg2 = s.arg2 := rfl
@[simp] theorem hostAdvance_lcmd (s : State) : s.hostAdvance.lcmd = s.lcmd := rfl
@[simp] theorem hostAdvance_lcmdHigh0 (s : State) : s.hostAdvance.lcmdHigh0 = s.lcmdHigh0 := rfl
@[simp] theorem hostAdvance_larg0 (s : State) : s.hostAdvance.larg0 = s.larg0 := rfl
@[simp] theorem hostAdvance_larg1 (s : State) : s.hostAdvance.larg1 = s.larg1 := rfl
@[simp] theorem hostAdvance_larg2 (s : State) : s.hostAdvance.larg2 = s.larg2 := rfl
@[simp] theorem hostAdvance_todo (s : State) : s.hostAdvance.todo = s.todo := rfl
@[simp] theorem hostAdvance_pending (s : State) : s.hostAdvance.pending = s.pending := rfl
@[simp] theorem hostAdvance_held (s : State) : s.hostAdvance.held = false := rfl
@[simp] theorem hostAdvance_cfg (s : State) : s.hostAdvance.cfg = s.cfg := rfl
@[simp] theorem hostAdvance_fbEpoch (s : State) : s.hostAdvance.fbEpoch = s.fbEpoch := rfl
@[simp] theorem hostAdvance_bus (s : State) : s.hostAdvance.bus = s.bus := rfl
@[simp] theorem hostAdvance_hostProg (s : State) : s.hostAdvance.hostProg = s.hostProg.tail := rfl
@[simp] theorem hostAdvance_readData (s : State) : s.hostAdvance.readData = s.readData := rfl
@[simp] theorem hostAdvance_turns (s : State) : s.hostAdvance.turns = s.turns := rfl

/-! ## hostReads -/

@[simp] theorem hostReads_ready (s : State) (v : Word) : (s.hostReads v).ready = s.ready := rfl
@[simp] theorem hostReads_w (s : State) (v : Word) : (s.hostReads v).w = s.w := rfl
@[simp] theorem hostReads_h (s : State) (v : Word) : (s.hostReads v).h = s.h := rfl
@[simp] theorem hostReads_ext (s : State) (v : Word) : (s.hostReads v).ext = s.ext := rfl
@[simp] theorem hostReads_fb (s : State) (v : Word) : (s.hostReads v).fb = s.fb := rfl
@[simp] theorem hostReads_busy (s : State) (v : Word) : (s.hostReads v).busy = s.busy := rfl
@[simp] theorem hostReads_err (s : State) (v : Word) : (s.hostReads v).err = s.err := rfl
@[simp] theorem hostReads_errcode (s : State) (v : Word) : (s.hostReads v).errcode = s.errcode := rfl
@[simp] theorem hostReads_lastfail (s : State) (v : Word) : (s.hostReads v).lastfail = s.lastfail := rfl
@[simp] theorem hostReads_arg0 (s : State) (v : Word) : (s.hostReads v).arg0 = s.arg0 := rfl
@[simp] theorem hostReads_arg1 (s : State) (v : Word) : (s.hostReads v).arg1 = s.arg1 := rfl
@[simp] theorem hostReads_arg2 (s : State) (v : Word) : (s.hostReads v).arg2 = s.arg2 := rfl
@[simp] theorem hostReads_lcmd (s : State) (v : Word) : (s.hostReads v).lcmd = s.lcmd := rfl
@[simp] theorem hostReads_lcmdHigh0 (s : State) (v : Word) : (s.hostReads v).lcmdHigh0 = s.lcmdHigh0 := rfl
@[simp] theorem hostReads_larg0 (s : State) (v : Word) : (s.hostReads v).larg0 = s.larg0 := rfl
@[simp] theorem hostReads_larg1 (s : State) (v : Word) : (s.hostReads v).larg1 = s.larg1 := rfl
@[simp] theorem hostReads_larg2 (s : State) (v : Word) : (s.hostReads v).larg2 = s.larg2 := rfl
@[simp] theorem hostReads_todo (s : State) (v : Word) : (s.hostReads v).todo = s.todo := rfl
@[simp] theorem hostReads_pending (s : State) (v : Word) : (s.hostReads v).pending = s.pending := rfl
@[simp] theorem hostReads_held (s : State) (v : Word) : (s.hostReads v).held = s.held := rfl
@[simp] theorem hostReads_cfg (s : State) (v : Word) : (s.hostReads v).cfg = s.cfg := rfl
@[simp] theorem hostReads_fbEpoch (s : State) (v : Word) : (s.hostReads v).fbEpoch = s.fbEpoch := rfl
@[simp] theorem hostReads_bus (s : State) (v : Word) : (s.hostReads v).bus = s.bus := rfl
@[simp] theorem hostReads_hostProg (s : State) (v : Word) : (s.hostReads v).hostProg = s.hostProg := rfl
@[simp] theorem hostReads_readData (s : State) (v : Word) : (s.hostReads v).readData = v := rfl
@[simp] theorem hostReads_turns (s : State) (v : Word) : (s.hostReads v).turns = s.turns := rfl

/-! ## toReset -/

@[simp] theorem toReset_ready (s : State) : s.toReset.ready = State.reset.ready := rfl
@[simp] theorem toReset_w (s : State) : s.toReset.w = State.reset.w := rfl
@[simp] theorem toReset_h (s : State) : s.toReset.h = State.reset.h := rfl
@[simp] theorem toReset_ext (s : State) : s.toReset.ext = State.reset.ext := rfl
@[simp] theorem toReset_fb (s : State) : s.toReset.fb = State.reset.fb := rfl
@[simp] theorem toReset_busy (s : State) : s.toReset.busy = State.reset.busy := rfl
@[simp] theorem toReset_err (s : State) : s.toReset.err = State.reset.err := rfl
@[simp] theorem toReset_errcode (s : State) : s.toReset.errcode = State.reset.errcode := rfl
@[simp] theorem toReset_lastfail (s : State) : s.toReset.lastfail = State.reset.lastfail := rfl
@[simp] theorem toReset_arg0 (s : State) : s.toReset.arg0 = State.reset.arg0 := rfl
@[simp] theorem toReset_arg1 (s : State) : s.toReset.arg1 = State.reset.arg1 := rfl
@[simp] theorem toReset_arg2 (s : State) : s.toReset.arg2 = State.reset.arg2 := rfl
@[simp] theorem toReset_lcmd (s : State) : s.toReset.lcmd = State.reset.lcmd := rfl
@[simp] theorem toReset_lcmdHigh0 (s : State) : s.toReset.lcmdHigh0 = State.reset.lcmdHigh0 := rfl
@[simp] theorem toReset_larg0 (s : State) : s.toReset.larg0 = State.reset.larg0 := rfl
@[simp] theorem toReset_larg1 (s : State) : s.toReset.larg1 = State.reset.larg1 := rfl
@[simp] theorem toReset_larg2 (s : State) : s.toReset.larg2 = State.reset.larg2 := rfl
@[simp] theorem toReset_todo (s : State) : s.toReset.todo = State.reset.todo := rfl
@[simp] theorem toReset_pending (s : State) : s.toReset.pending = State.reset.pending := rfl
@[simp] theorem toReset_held (s : State) : s.toReset.held = State.reset.held := rfl
@[simp] theorem toReset_cfg (s : State) : s.toReset.cfg = s.cfg := rfl
@[simp] theorem toReset_fbEpoch (s : State) : s.toReset.fbEpoch = s.fbEpoch + 1 := rfl
@[simp] theorem toReset_bus (s : State) : s.toReset.bus = s.bus := rfl
@[simp] theorem toReset_hostProg (s : State) : s.toReset.hostProg = s.hostProg := rfl
@[simp] theorem toReset_readData (s : State) : s.toReset.readData = s.readData := rfl
@[simp] theorem toReset_turns (s : State) : s.toReset.turns = s.turns := rfl

/-! ## fbSetBit and record, which test the state first -/

@[simp] theorem fbSetBit_ready (s : State) (p : Point) (v : Bool) : (s.fbSetBit p v).ready = s.ready := by
  unfold State.fbSetBit; split <;> rfl
@[simp] theorem fbSetBit_w (s : State) (p : Point) (v : Bool) : (s.fbSetBit p v).w = s.w := by
  unfold State.fbSetBit; split <;> rfl
@[simp] theorem fbSetBit_h (s : State) (p : Point) (v : Bool) : (s.fbSetBit p v).h = s.h := by
  unfold State.fbSetBit; split <;> rfl
@[simp] theorem fbSetBit_ext (s : State) (p : Point) (v : Bool) : (s.fbSetBit p v).ext = s.ext := by
  unfold State.fbSetBit; split <;> rfl
@[simp] theorem fbSetBit_busy (s : State) (p : Point) (v : Bool) : (s.fbSetBit p v).busy = s.busy := by
  unfold State.fbSetBit; split <;> rfl
@[simp] theorem fbSetBit_err (s : State) (p : Point) (v : Bool) : (s.fbSetBit p v).err = s.err := by
  unfold State.fbSetBit; split <;> rfl
@[simp] theorem fbSetBit_errcode (s : State) (p : Point) (v : Bool) : (s.fbSetBit p v).errcode = s.errcode := by
  unfold State.fbSetBit; split <;> rfl
@[simp] theorem fbSetBit_lastfail (s : State) (p : Point) (v : Bool) : (s.fbSetBit p v).lastfail = s.lastfail := by
  unfold State.fbSetBit; split <;> rfl
@[simp] theorem fbSetBit_arg0 (s : State) (p : Point) (v : Bool) : (s.fbSetBit p v).arg0 = s.arg0 := by
  unfold State.fbSetBit; split <;> rfl
@[simp] theorem fbSetBit_arg1 (s : State) (p : Point) (v : Bool) : (s.fbSetBit p v).arg1 = s.arg1 := by
  unfold State.fbSetBit; split <;> rfl
@[simp] theorem fbSetBit_arg2 (s : State) (p : Point) (v : Bool) : (s.fbSetBit p v).arg2 = s.arg2 := by
  unfold State.fbSetBit; split <;> rfl
@[simp] theorem fbSetBit_lcmd (s : State) (p : Point) (v : Bool) : (s.fbSetBit p v).lcmd = s.lcmd := by
  unfold State.fbSetBit; split <;> rfl
@[simp] theorem fbSetBit_lcmdHigh0 (s : State) (p : Point) (v : Bool) : (s.fbSetBit p v).lcmdHigh0 = s.lcmdHigh0 := by
  unfold State.fbSetBit; split <;> rfl
@[simp] theorem fbSetBit_larg0 (s : State) (p : Point) (v : Bool) : (s.fbSetBit p v).larg0 = s.larg0 := by
  unfold State.fbSetBit; split <;> rfl
@[simp] theorem fbSetBit_larg1 (s : State) (p : Point) (v : Bool) : (s.fbSetBit p v).larg1 = s.larg1 := by
  unfold State.fbSetBit; split <;> rfl
@[simp] theorem fbSetBit_larg2 (s : State) (p : Point) (v : Bool) : (s.fbSetBit p v).larg2 = s.larg2 := by
  unfold State.fbSetBit; split <;> rfl
@[simp] theorem fbSetBit_todo (s : State) (p : Point) (v : Bool) : (s.fbSetBit p v).todo = s.todo := by
  unfold State.fbSetBit; split <;> rfl
@[simp] theorem fbSetBit_pending (s : State) (p : Point) (v : Bool) : (s.fbSetBit p v).pending = s.pending := by
  unfold State.fbSetBit; split <;> rfl
@[simp] theorem fbSetBit_held (s : State) (p : Point) (v : Bool) : (s.fbSetBit p v).held = s.held := by
  unfold State.fbSetBit; split <;> rfl
@[simp] theorem fbSetBit_cfg (s : State) (p : Point) (v : Bool) : (s.fbSetBit p v).cfg = s.cfg := by
  unfold State.fbSetBit; split <;> rfl
@[simp] theorem fbSetBit_fbEpoch (s : State) (p : Point) (v : Bool) : (s.fbSetBit p v).fbEpoch = s.fbEpoch := by
  unfold State.fbSetBit; split <;> rfl
@[simp] theorem fbSetBit_bus (s : State) (p : Point) (v : Bool) : (s.fbSetBit p v).bus = s.bus := by
  unfold State.fbSetBit; split <;> rfl
@[simp] theorem fbSetBit_hostProg (s : State) (p : Point) (v : Bool) : (s.fbSetBit p v).hostProg = s.hostProg := by
  unfold State.fbSetBit; split <;> rfl
@[simp] theorem fbSetBit_readData (s : State) (p : Point) (v : Bool) : (s.fbSetBit p v).readData = s.readData := by
  unfold State.fbSetBit; split <;> rfl
@[simp] theorem fbSetBit_turns (s : State) (p : Point) (v : Bool) : (s.fbSetBit p v).turns = s.turns := by
  unfold State.fbSetBit; split <;> rfl

@[simp] theorem record_ready (s : State) (r : TxResult) : (s.record r).ready = s.ready := by
  unfold State.record; split <;> rfl
@[simp] theorem record_w (s : State) (r : TxResult) : (s.record r).w = s.w := by
  unfold State.record; split <;> rfl
@[simp] theorem record_h (s : State) (r : TxResult) : (s.record r).h = s.h := by
  unfold State.record; split <;> rfl
@[simp] theorem record_ext (s : State) (r : TxResult) : (s.record r).ext = s.ext := by
  unfold State.record; split <;> rfl
@[simp] theorem record_fb (s : State) (r : TxResult) : (s.record r).fb = s.fb := by
  unfold State.record; split <;> rfl
@[simp] theorem record_busy (s : State) (r : TxResult) : (s.record r).busy = s.busy := by
  unfold State.record; split <;> rfl
@[simp] theorem record_err (s : State) (r : TxResult) : (s.record r).err = s.err := by
  unfold State.record; split <;> rfl
@[simp] theorem record_errcode (s : State) (r : TxResult) : (s.record r).errcode = s.errcode := by
  unfold State.record; split <;> rfl
@[simp] theorem record_lastfail (s : State) (r : TxResult) : (s.record r).lastfail = s.lastfail := by
  unfold State.record; split <;> rfl
@[simp] theorem record_arg0 (s : State) (r : TxResult) : (s.record r).arg0 = s.arg0 := by
  unfold State.record; split <;> rfl
@[simp] theorem record_arg1 (s : State) (r : TxResult) : (s.record r).arg1 = s.arg1 := by
  unfold State.record; split <;> rfl
@[simp] theorem record_arg2 (s : State) (r : TxResult) : (s.record r).arg2 = s.arg2 := by
  unfold State.record; split <;> rfl
@[simp] theorem record_lcmd (s : State) (r : TxResult) : (s.record r).lcmd = s.lcmd := by
  unfold State.record; split <;> rfl
@[simp] theorem record_lcmdHigh0 (s : State) (r : TxResult) : (s.record r).lcmdHigh0 = s.lcmdHigh0 := by
  unfold State.record; split <;> rfl
@[simp] theorem record_larg0 (s : State) (r : TxResult) : (s.record r).larg0 = s.larg0 := by
  unfold State.record; split <;> rfl
@[simp] theorem record_larg1 (s : State) (r : TxResult) : (s.record r).larg1 = s.larg1 := by
  unfold State.record; split <;> rfl
@[simp] theorem record_larg2 (s : State) (r : TxResult) : (s.record r).larg2 = s.larg2 := by
  unfold State.record; split <;> rfl
@[simp] theorem record_todo (s : State) (r : TxResult) : (s.record r).todo = s.todo := by
  unfold State.record; split <;> rfl
@[simp] theorem record_held (s : State) (r : TxResult) : (s.record r).held = s.held := by
  unfold State.record; split <;> rfl
@[simp] theorem record_cfg (s : State) (r : TxResult) : (s.record r).cfg = s.cfg := by
  unfold State.record; split <;> rfl
@[simp] theorem record_fbEpoch (s : State) (r : TxResult) : (s.record r).fbEpoch = s.fbEpoch := by
  unfold State.record; split <;> rfl
@[simp] theorem record_hostProg (s : State) (r : TxResult) : (s.record r).hostProg = s.hostProg := by
  unfold State.record; split <;> rfl
@[simp] theorem record_readData (s : State) (r : TxResult) : (s.record r).readData = s.readData := by
  unfold State.record; split <;> rfl
@[simp] theorem record_turns (s : State) (r : TxResult) : (s.record r).turns = s.turns := by
  unfold State.record; split <;> rfl
@[simp] theorem record_pending (s : State) (r : TxResult) : (s.record r).pending = none := by
  unfold State.record; split <;> simp_all

end Sys2Proof.Machine
end

