-- ==== Sys2Proof/Laws/Ops.lean ====
section
/-!
SUPPORT. The laws of the framebuffer operations: what each byte and each pixel bit reads as afterwards.
-/

namespace Sys2Proof.Machine

theorem fbRead_fbWrite (s : State) (i : Nat) (v : Byte) (j : Nat) :
    (s.fbWrite i v).fbRead j = if j = i then v else s.fbRead j := by
  unfold State.fbRead State.fbWrite
  simp only [read?_write]
  by_cases h : j = i <;> simp [h]

theorem fbRead_zeroFill (s : State) (j : Nat) :
    s.zeroFill.fbRead j = if j < s.frameBytes then 0x00#8 else s.fbRead j := by
  unfold State.fbRead State.zeroFill
  simp only [read?_fill]
  by_cases h : j < s.frameBytes <;> simp [h]

@[simp] theorem frameBytes_zeroFill (s : State) : s.zeroFill.frameBytes = s.frameBytes := rfl

@[simp] theorem frameBytes_plan (s : State) (as : List Action) : (s.plan as).frameBytes = s.frameBytes := rfl

@[simp] theorem frameBytes_fbSetBit (s : State) (p : Point) (v : Bool) :
    (s.fbSetBit p v).frameBytes = s.frameBytes := by
  simp [State.frameBytes, State.pages]

@[simp] theorem inRange_fbSetBit (s : State) (p : Point) (v : Bool) (q : Point) :
    (s.fbSetBit p v).inRange q = s.inRange q := by
  simp [State.inRange]

theorem inRange_iff (s : State) (p : Point) :
    s.inRange p = true ↔ 0 ≤ p.x ∧ p.x < (s.w.toNat : Int) ∧ 0 ≤ p.y ∧ p.y < (s.h.toNat : Int) := by
  simp [State.inRange, and_assoc]

theorem putBit_getLsbD (old : Byte) (b k : Nat) (v : Bool) (hk : k < 8) :
    (putBit old b v).getLsbD k = if k = b then v else old.getLsbD k := by
  unfold putBit
  cases v
  · simp [hk]
    by_cases h : k = b
    · subst h; simp
    · simp only [h]
      by_cases hb : k < b
      · simp [hb]
      · have : k - b ≠ 0 := by omega
        simp [this]
  · simp [hk]
    by_cases h : k = b
    · subst h; simp
    · simp only [h]
      by_cases hb : k < b
      · simp [hb]
      · have : k - b ≠ 0 := by omega
        simp [this]

theorem fbRead_fbSetBit (s : State) (p : Point) (v : Bool) (j : Nat) :
    (s.fbSetBit p v).fbRead j =
      if s.inRange p = true ∧ j = pixIndex s.w.toNat p.x.toNat p.y.toNat then
        putBit (s.fbRead j) (p.y.toNat % 8) v
      else s.fbRead j := by
  unfold State.fbSetBit
  by_cases h : s.inRange p = true
  · simp only [h, if_true, fbRead_fbWrite, true_and]
    split
    · rename_i hj; rw [hj]
    · rfl
  · simp [h]

/-- Every framebuffer bit after `FbSetBit`: the pixel's own bit takes the value, every other bit is as before. -/
theorem fbBit_fbSetBit (s : State) (p : Point) (v : Bool) (j b : Nat) (hb : b < 8) :
    ((s.fbSetBit p v).fbRead j).getLsbD b =
      if s.inRange p = true ∧ j = pixIndex s.w.toNat p.x.toNat p.y.toNat ∧ b = p.y.toNat % 8 then v
      else (s.fbRead j).getLsbD b := by
  rw [fbRead_fbSetBit]
  by_cases h : s.inRange p = true ∧ j = pixIndex s.w.toNat p.x.toNat p.y.toNat
  · simp only [h, and_self, if_true, true_and, putBit_getLsbD _ _ _ _ hb]
  · simp only [h, if_false]
    rw [if_neg (fun hh => h ⟨hh.1, hh.2.1⟩)]

/-- An in-range pixel lies inside the framebuffer. -/
theorem pixIndex_lt (w h x y : Nat) (hh : h % 8 = 0) (hx : x < w) (hy : y < h) :
    pixIndex w x y < h / 8 * w := by
  have h1 : y / 8 + 1 ≤ h / 8 := by omega
  have h2 := Nat.mul_le_mul_right w h1
  unfold pixIndex
  rw [Nat.add_mul, Nat.one_mul] at h2
  omega

/-- At the COORD_BITS of this hardware a coordinate is `sext` of the whole field (30_encoding.md R49). -/
theorem coordinate_standard (c : Config) (h : c.coordBits = 16) (field : BitVec 16) :
    coordinate c field = field.toInt := by
  unfold coordinate
  rw [show min c.coordBits 16 = 16 by omega, BitVec.setWidth_eq]

theorem wf_fbSetBit (s : State) (p : Point) (v : Bool) (h : s.fb.wf) : (s.fbSetBit p v).fb.wf := by
  unfold State.fbSetBit
  split
  · exact wf_write _ _ _ h
  · exact h

theorem read?_fbSetBit_isSome (s : State) (p : Point) (v : Bool) (j : Nat)
    (h : (s.fb.read? j).isSome = true) : ((s.fbSetBit p v).fb.read? j).isSome = true := by
  unfold State.fbSetBit
  split
  · simp only [fbWrite_fb, read?_write]
    split <;> simp [h]
  · exact h

theorem geometryLegal_iff (c : Config) (w h : Nat) :
    geometryLegal c w h = true ↔ 1 ≤ w ∧ w ≤ c.maxW ∧ 8 ≤ h ∧ h ≤ c.maxH ∧ h % 8 = 0 := by
  simp [geometryLegal, and_assoc]

/-- A legal geometry fits in the framebuffer RAM (20_memory.md R30). -/
theorem frame_fits (c : Config) (w h : Nat) (hg : geometryLegal c w h = true) : h / 8 * w ≤ c.fbCap := by
  obtain ⟨-, hw, -, hh, hm⟩ := (geometryLegal_iff c w h).mp hg
  have h1 : h / 8 * w * 8 ≤ c.maxW * c.maxH := by
    have h2 : h / 8 * 8 = h := by omega
    calc h / 8 * w * 8 = h / 8 * 8 * w := by ring
      _ = h * w := by rw [h2]
      _ ≤ c.maxH * c.maxW := Nat.mul_le_mul hh hw
      _ = c.maxW * c.maxH := Nat.mul_comm _ _
  exact (Nat.le_div_iff_mul_le (by omega)).mpr h1

end Sys2Proof.Machine
end

