-- ==== Sys2Proof/Laws/Engine.lean ====
section
/-!
SUPPORT. The laws of the engine: everything a run of actions can do, and what it does when every transaction is
answered ACK.
-/

namespace Sys2Proof.Machine

/-- What no action of a command changes: the parameters, the geometry, the argument registers and latches, and the
host's side of the port. -/
structure EngineKeeps (s t : State) : Prop where
  cfg : t.cfg = s.cfg
  w : t.w = s.w
  h : t.h = s.h
  ext : t.ext = s.ext
  arg0 : t.arg0 = s.arg0
  arg1 : t.arg1 = s.arg1
  arg2 : t.arg2 = s.arg2
  lcmd : t.lcmd = s.lcmd
  lcmdHigh0 : t.lcmdHigh0 = s.lcmdHigh0
  larg0 : t.larg0 = s.larg0
  larg1 : t.larg1 = s.larg1
  larg2 : t.larg2 = s.larg2
  held : t.held = s.held
  fbEpoch : t.fbEpoch = s.fbEpoch
  hostProg : t.hostProg = s.hostProg
  readData : t.readData = s.readData

theorem EngineKeeps.refl (s : State) : EngineKeeps s s := by constructor <;> rfl

theorem EngineKeeps.trans {s t u : State} (a : EngineKeeps s t) (b : EngineKeeps t u) : EngineKeeps s u := by
  constructor
  · exact b.cfg.trans a.cfg
  · exact b.w.trans a.w
  · exact b.h.trans a.h
  · exact b.ext.trans a.ext
  · exact b.arg0.trans a.arg0
  · exact b.arg1.trans a.arg1
  · exact b.arg2.trans a.arg2
  · exact b.lcmd.trans a.lcmd
  · exact b.lcmdHigh0.trans a.lcmdHigh0
  · exact b.larg0.trans a.larg0
  · exact b.larg1.trans a.larg1
  · exact b.larg2.trans a.larg2
  · exact b.held.trans a.held
  · exact b.fbEpoch.trans a.fbEpoch
  · exact b.hostProg.trans a.hostProg
  · exact b.readData.trans a.readData

/-- The state after a transaction that was issued and answered at once, with the answers that are left. -/
def afterAnswer (s : State) (payload : List Byte) (rest : List Action) (a : Answer) (r : List Turn) : State :=
  ({ s with turns := r }.issue payload rest).answered a

theorem afterAnswer_ack (s : State) (payload : List Byte) (rest : List Action) (r : List Turn) :
    afterAnswer s payload rest .ack r =
      { s with turns := r, todo := some rest, pending := none, bus := s.bus ++ [acked s.cfg payload] } := rfl

theorem afterAnswer_fail (s : State) (payload : List Byte) (rest : List Action) (r : List Turn) :
    afterAnswer s payload rest .fail r = s.failed [failedTx s.cfg payload] r := rfl

/-- Everything the issue of a transaction can do: it is carried and the command goes on, it fails and the command ends
with TRANSPORT, or the engine waits with it outstanding. -/
theorem transmit_cases (s : State) (payload : List Byte) (rest : List Action) (k : State → State) :
    (∃ r, s.turns = .answer .ack :: r ∧ transmit s payload rest k = k (afterAnswer s payload rest .ack r)) ∨
    (∃ r, s.turns = .answer .fail :: r ∧ transmit s payload rest k = afterAnswer s payload rest .fail r) ∨
    ((∀ a r, s.turns ≠ .answer a :: r) ∧ transmit s payload rest k = s.issue payload rest) := by
  unfold transmit afterAnswer
  split
  · rename_i r h; exact .inl ⟨r, h, rfl⟩
  · rename_i r h; exact .inr (.inl ⟨r, h, rfl⟩)
  · rename_i h1 h2
    refine .inr (.inr ⟨?_, rfl⟩)
    intro a r h
    cases a
    · exact h1 r h
    · exact h2 r h

theorem keeps_afterAnswer (s : State) (payload : List Byte) (rest : List Action) (a : Answer) (r : List Turn) :
    EngineKeeps s (afterAnswer s payload rest a r) := by
  cases a <;> constructor <;> rfl

theorem keeps_issue (s : State) (payload : List Byte) (rest : List Action) :
    EngineKeeps s (s.issue payload rest) := by constructor <;> rfl

theorem keeps_fbSetBit (s : State) (p : Point) (v : Bool) : EngineKeeps s (s.fbSetBit p v) := by
  constructor <;> simp

/-- Running a command's actions keeps everything `EngineKeeps` names. -/
theorem runActions_keeps (as : List Action) (s : State) : EngineKeeps s (runActions as s) := by
  induction as generalizing s with
  | nil => constructor <;> rfl
  | cons a as ih =>
    cases a with
    | zeroFill => exact EngineKeeps.trans (t := s.zeroFill) (by constructor <;> rfl) (ih _)
    | setBit p v => exact (keeps_fbSetBit s p v).trans (ih _)
    | ready => constructor <;> rfl
    | sendCmd b =>
      obtain ⟨r, -, h⟩ | ⟨r, -, h⟩ | ⟨-, h⟩ := transmit_cases s (cmdPayload s.cfg b) as (runActions as)
      · rw [runActions, h]; exact (keeps_afterAnswer _ _ _ _ _).trans (ih _)
      · rw [runActions, h]; exact keeps_afterAnswer _ _ _ _ _
      · rw [runActions, h]; exact keeps_issue _ _ _
    | sendData =>
      obtain ⟨r, -, h⟩ | ⟨r, -, h⟩ | ⟨-, h⟩ := transmit_cases s (dataPayload s.cfg s.frame) as (runActions as)
      · rw [runActions, h]; exact (keeps_afterAnswer _ _ _ _ _).trans (ih _)
      · rw [runActions, h]; exact keeps_afterAnswer _ _ _ _ _
      · rw [runActions, h]; exact keeps_issue _ _ _

/-- The state with another progress point and another outstanding transaction. -/
def State.atProgress (s : State) (x : Option (List Action)) (y : Option Transaction) : State :=
  { s with todo := x, pending := y }

theorem fbSetBit_atProgress (s : State) (x : Option (List Action)) (y : Option Transaction) (p : Point) (v : Bool) :
    (s.atProgress x y).fbSetBit p v = (s.fbSetBit p v).atProgress x y := by
  unfold State.fbSetBit
  rw [show (s.atProgress x y).inRange p = s.inRange p from rfl]
  by_cases h : s.inRange p = true
  · simp only [h, if_true]; rfl
  · simp only [h]; rfl

/-- A run of actions reads neither the progress point nor the outstanding transaction it starts from. -/
theorem runActions_progress (as : List Action) (s : State) (x : Option (List Action)) (y : Option Transaction) :
    runActions as (s.atProgress x y) = runActions as s := by
  induction as generalizing s with
  | nil => rfl
  | cons a as ih =>
    cases a with
    | zeroFill => exact ih s.zeroFill
    | setBit p v => rw [runActions, fbSetBit_atProgress, ih]; rfl
    | ready => rfl
    | sendCmd b => rw [runActions, runActions]; unfold transmit; rfl
    | sendData => rw [runActions, runActions]; unfold transmit; rfl

/-- The commands that draw: the points in order, then `complete()`. -/
theorem runActions_setAll (ps : List Point) (v : Bool) (s : State) :
    runActions (ps.map (Action.setBit · v)) s = (s.drawAll ps v).complete := by
  induction ps generalizing s with
  | nil => rfl
  | cons p ps ih => exact ih (s.fbSetBit p v)

theorem sent_sent (s : State) (a b : List BusRecord) (q r : List Turn) :
    (s.sent a q).sent b r = s.sent (a ++ b) r := by
  simp [State.sent]

theorem sent_nil (s : State) : s.sent [] s.turns = s := by simp [State.sent]

/-- The payload of an action that issues a transaction. -/
def Action.payload (s : State) : Action → Option (List Byte)
  | .zeroFill => none
  | .setBit _ _ => none
  | .sendCmd b => some (cmdPayload s.cfg b)
  | .sendData => some (dataPayload s.cfg s.frame)
  | .ready => none

theorem payload_sent (s : State) (a : List BusRecord) (r : List Turn) :
    Action.payload (s.sent a r) = Action.payload s := rfl

/-- A transaction is the issue of its payload. -/
theorem runActions_send (a : Action) (as : List Action) (s : State) (p : List Byte) (h : a.payload s = some p) :
    runActions (a :: as) s = transmit s p as (runActions as) := by
  cases a <;> simp [Action.payload] at h <;> subst h <;> rfl

theorem runActions_send_ack (a : Action) (as : List Action) (s : State) (p : List Byte) (r : List Turn)
    (h : a.payload s = some p) (ht : s.turns = .answer .ack :: r) :
    runActions (a :: as) s = runActions as (s.sent [acked s.cfg p] r) := by
  rw [runActions_send a as s p h]
  unfold transmit
  rw [ht]
  exact runActions_progress as (s.sent [acked s.cfg p] r) _ _

theorem runActions_send_fail (a : Action) (as : List Action) (s : State) (p : List Byte) (r : List Turn)
    (h : a.payload s = some p) (ht : s.turns = .answer .fail :: r) :
    runActions (a :: as) s = s.failed [failedTx s.cfg p] r := by
  rw [runActions_send a as s p h]
  unfold transmit
  rw [ht]
  rfl

theorem runActions_send_wait (a : Action) (as : List Action) (s : State) (p : List Byte)
    (h : a.payload s = some p) (ht : noAnswerNext s.turns) :
    runActions (a :: as) s = s.issue p as := by
  rw [runActions_send a as s p h]
  obtain ⟨r, hr, -⟩ | ⟨r, hr, -⟩ | ⟨-, hr⟩ := transmit_cases s p as (runActions as)
  · exact absurd hr (ht _ _)
  · exact absurd hr (ht _ _)
  · exact hr

/-- Transactions each answered ACK: one record for each payload, in order, then the rest of the command. -/
theorem runActions_sends_acks (sends as : List Action) (s : State) (ps : List (List Byte)) (r : List Turn)
    (hp : sends.map (Action.payload s) = ps.map some) (ht : s.turns = acks ps.length ++ r) :
    runActions (sends ++ as) s = runActions as (s.sent (carried s.cfg ps) r) := by
  induction sends generalizing s ps with
  | nil =>
    obtain rfl : ps = [] := by simpa using hp.symm
    obtain rfl : s.turns = r := by simpa [acks] using ht
    simp [carried, sent_nil]
  | cons a sends ih =>
    cases ps with
    | nil => simp at hp
    | cons p ps =>
      simp only [List.map_cons, List.cons.injEq] at hp
      have ht' : s.turns = .answer .ack :: (acks ps.length ++ r) := by simpa [acks, List.replicate_succ] using ht
      rw [List.cons_append, runActions_send_ack a _ s p _ hp.1 ht', ih (s.sent _ _) ps (by rw [payload_sent]; exact hp.2) rfl,
        sent_sent]
      rfl

/-- Transactions of which the one after the first `k` is answered FAIL: no later one is issued, and the command ends
with TRANSPORT. -/
theorem runActions_sends_fail (sends as : List Action) (s : State) (ps : List (List Byte)) (k : Nat) (p : List Byte)
    (r : List Turn) (hp : sends.map (Action.payload s) = ps.map some) (hk : ps[k]? = some p)
    (ht : s.turns = acks k ++ .answer .fail :: r) :
    runActions (sends ++ as) s = s.failed (carried s.cfg (ps.take k) ++ [failedTx s.cfg p]) r := by
  induction sends generalizing s ps k with
  | nil =>
    obtain rfl : ps = [] := by simpa using hp.symm
    simp at hk
  | cons a sends ih =>
    cases ps with
    | nil => simp at hk
    | cons q ps =>
      simp only [List.map_cons, List.cons.injEq] at hp
      cases k with
      | zero =>
        obtain rfl : q = p := by simpa using hk
        rw [List.cons_append, runActions_send_fail a _ s q r hp.1 (by simpa [acks] using ht)]
        simp [carried]
      | succ k =>
        have ht' : s.turns = .answer .ack :: (acks k ++ .answer .fail :: r) := by
          simpa [acks, List.replicate_succ] using ht
        rw [List.cons_append, runActions_send_ack a _ s q _ hp.1 ht',
          ih (s.sent _ _) ps k (by rw [payload_sent]; exact hp.2) (by simpa using hk) rfl]
        simp [State.failed, State.sent, carried]

/-- Transactions of which the one after the first `k` has no answer yet: the engine waits with it outstanding. -/
theorem runActions_sends_wait (sends as : List Action) (s : State) (ps : List (List Byte)) (k : Nat) (p : List Byte)
    (r : List Turn) (hp : sends.map (Action.payload s) = ps.map some) (hk : ps[k]? = some p)
    (ht : s.turns = acks k ++ r) (hr : noAnswerNext r) :
    runActions (sends ++ as) s =
      (s.sent (carried s.cfg (ps.take k)) r).issue p (sends.drop (k + 1) ++ as) := by
  induction sends generalizing s ps k with
  | nil =>
    obtain rfl : ps = [] := by simpa using hp.symm
    simp at hk
  | cons a sends ih =>
    cases ps with
    | nil => simp at hk
    | cons q ps =>
      simp only [List.map_cons, List.cons.injEq] at hp
      cases k with
      | zero =>
        obtain rfl : q = p := by simpa using hk
        obtain rfl : s.turns = r := by simpa [acks] using ht
        rw [List.cons_append, runActions_send_wait a _ s q hp.1 hr]
        simp [carried, sent_nil]
      | succ k =>
        have ht' : s.turns = .answer .ack :: (acks k ++ r) := by simpa [acks, List.replicate_succ] using ht
        rw [List.cons_append, runActions_send_ack a _ s q _ hp.1 ht',
          ih (s.sent _ _) ps k (by rw [payload_sent]; exact hp.2) (by simpa using hk) rfl]
        simp [State.issue, State.sent, carried]

theorem map_payload_sendAll (s : State) (bs : List Byte) :
    (sendAll bs).map (Action.payload s) = (cmdPayloads s.cfg bs).map some := by
  simp [sendAll, cmdPayloads, Action.payload]

theorem map_payload_flushBody (s : State) (w h : Nat) :
    (flushBody s.cfg.ctrl w h).map (Action.payload s) = (flushPayloads s.cfg w h s.frame).map some := by
  simp [flushBody, flushPayloads, map_payload_sendAll, Action.payload]

end Sys2Proof.Machine
end

