-- ==== Sys2Proof/Laws/Step.lean ====
section
/-!
SUPPORT. Everything one move of each agent can do, said once; later proofs cite these and unfold no agent.
-/

namespace Sys2Proof.Machine

/-- Every command's meaning is its start followed by the engine's run. -/
theorem exec_eq (i : Instr) (s : State) : exec i s = .next (engineRun (startCommand i s)) := by
  cases i <;> rfl

@[simp] theorem engineRun_raise (s : State) (c : ErrCode) : engineRun (s.raise c) = s.raise c := rfl

@[simp] theorem engineRun_plan (s : State) (as : List Action) : engineRun (s.plan as) = runActions as s :=
  runActions_progress as s (some as) s.pending

/-- The actions a command other than INIT does. -/
def readyActions (i : Instr) (s : State) : List Action :=
  match i with
  | .init => []
  | .clear => [.zeroFill]
  | .flush => flushBody s.cfg.ctrl s.w.toNat s.h.toNat
  | .setPixel => [.setBit s.point0 s.value]
  | .drawLine => setAll (linePoints s.cfg.lineAlg s.point0 s.point1) s.value
  | .contrast => sendAll [s.cfg.ctrl.setContrast, s.level]
  | .invert => sendAll [s.cfg.ctrl.normInv ||| s.flag]
  | .powerOn => sendAll [s.cfg.ctrl.dispOn]
  | .powerOff => sendAll [s.cfg.ctrl.dispOff]

theorem startCommand_ready (i : Instr) (hi : i ≠ .init) (s : State) (hr : s.ready = true) :
    startCommand i s = s.plan (readyActions i s) := by
  cases i <;> first | exact absurd rfl hi |
    simp [startCommand, startClear, startFlush, startSetPixel, startDrawLine, startContrast, startInvert,
      startPowerOn, startPowerOff, State.planReady, readyActions, hr]

theorem startCommand_notReady (i : Instr) (hi : i ≠ .init) (s : State) (hr : s.ready = false) :
    startCommand i s = s.raise .notReady := by
  cases i <;> first | exact absurd rfl hi |
    simp [startCommand, startClear, startFlush, startSetPixel, startDrawLine, startContrast, startInvert,
      startPowerOn, startPowerOff, State.planReady, hr]

/-- The state in which INIT begins its transactions. -/
def initBegun (s : State) : State := (s.setGeometry s.width s.height s.extIn).zeroFill

theorem startInit_ready (s : State) (hr : s.ready = true) : startInit s = s.raise .alreadyReady := by
  simp [startInit, hr]

theorem startInit_badGeometry (s : State) (hr : s.ready = false)
    (hg : geometryLegal s.cfg s.width.toNat s.height.toNat = false) : startInit s = s.raise .badGeometry := by
  simp [startInit, hr, hg]

theorem startInit_legal (s : State) (hr : s.ready = false)
    (hg : geometryLegal s.cfg s.width.toNat s.height.toNat = true) :
    startInit s =
      (initBegun s).plan (initActions s.cfg.ctrl s.width.toNat s.height.toNat s.extIn) := by
  simp [startInit, hr, hg, initBegun]

/-- A command of a READY block, run from its acceptance. -/
theorem exec_ready (i : Instr) (hi : i ≠ .init) (s : State) (hr : s.ready = true) :
    exec i s = .next (runActions (readyActions i s) s) := by
  rw [exec_eq, startCommand_ready i hi s hr, engineRun_plan]

/-- Any command but INIT before a successful INIT. -/
theorem exec_notReady (i : Instr) (hi : i ≠ .init) (s : State) (hr : s.ready = false) :
    exec i s = .next (s.raise .notReady) := by
  rw [exec_eq, startCommand_notReady i hi s hr, engineRun_raise]

/-- INIT with a legal geometry, run from its acceptance. -/
theorem exec_init_legal (s : State) (hr : s.ready = false)
    (hg : geometryLegal s.cfg s.width.toNat s.height.toNat = true) :
    exec .init s = .next
      (runActions (initActions s.cfg.ctrl s.width.toNat s.height.toNat s.extIn) (initBegun s)) := by
  rw [exec_eq, show startCommand .init s = startInit s from rfl, startInit_legal s hr hg, engineRun_plan]

/-- Everything the start of a command can do: an error, INIT's start, or the actions of a READY block. -/
theorem startCommand_cases (i : Instr) (s : State) :
    (∃ c, startCommand i s = s.raise c) ∨
    (i = .init ∧ s.ready = false ∧ geometryLegal s.cfg s.width.toNat s.height.toNat = true ∧
      startCommand i s = (initBegun s).plan (initActions s.cfg.ctrl s.width.toNat s.height.toNat s.extIn)) ∨
    (i ≠ .init ∧ s.ready = true ∧ startCommand i s = s.plan (readyActions i s)) := by
  by_cases hi : i = .init
  · subst hi
    cases hr : s.ready
    · cases hg : geometryLegal s.cfg s.width.toNat s.height.toNat
      · exact .inl ⟨_, startInit_badGeometry s hr hg⟩
      · exact .inr (.inl ⟨rfl, rfl, rfl, startInit_legal s hr hg⟩)
    · exact .inl ⟨_, startInit_ready s hr⟩
  · cases hr : s.ready
    · exact .inl ⟨_, startCommand_notReady i hi s hr⟩
    · exact .inr (.inr ⟨hi, rfl, startCommand_ready i hi s hr⟩)

/-- `READY <- 1` is an action of INIT only. -/
theorem ready_not_mem_readyActions (i : Instr) (s : State) : Action.ready ∉ readyActions i s := by
  cases i <;> simp [readyActions, flushBody, sendAll, setAll]

/-- The actions of a READY block's command write the framebuffer only if the command is one that does. -/
theorem fbActionsBelong_readyActions (i : Instr) (s : State) : fbActionsBelong i (readyActions i s) := by
  intro a ha hw
  cases i <;> try rfl
  all_goals
    simp [readyActions, flushBody, sendAll] at ha
    rcases ha with ⟨b, -, rfl⟩ | rfl <;> cases hw

/-- Everything the host's turn can do. -/
theorem hostTurn_cases (s : State) :
    (s.hostProg = [] ∧ hostTurn s = s) ∨
    (∃ op ops, s.hostProg = op :: ops ∧ s.busy = true ∧ op.holdable s.cfg = true ∧
      hostTurn s = { s with held := true }) ∨
    (∃ op ops, s.hostProg = op :: ops ∧ (s.busy = false ∨ op.holdable s.cfg = false) ∧
      hostTurn s = s.hostPerform op) := by
  unfold hostTurn
  cases h : s.hostProg with
  | nil => exact .inl ⟨rfl, rfl⟩
  | cons op ops =>
    cases hb : s.busy <;> cases ho : op.holdable s.cfg
    · exact .inr (.inr ⟨op, ops, rfl, .inl rfl, by simp [ho]⟩)
    · exact .inr (.inr ⟨op, ops, rfl, .inl rfl, by simp [ho]⟩)
    · exact .inr (.inr ⟨op, ops, rfl, .inr ho, by simp [ho]⟩)
    · exact .inr (.inl ⟨op, ops, rfl, rfl, ho, by simp [ho]⟩)

/-- Everything the engine's turn can do. -/
theorem engineTurn_cases (s : State) :
    ((s.busy = false ∨ s.pending ≠ none) ∧ engineTurn s = .next s) ∨
    (∃ as, s.busy = true ∧ s.pending = none ∧ s.todo = some as ∧ engineTurn s = .next (runActions as s)) ∨
    (∃ i, s.Accepted i ∧ engineTurn s = exec i s) ∨
    (∃ e, s.busy = true ∧ s.pending = none ∧ s.todo = none ∧ decodeLatched s.lcmdHigh0 s.lcmd = .error e ∧
      engineTurn s = .next (s.raise .illegal)) := by
  unfold engineTurn
  cases hb : s.busy
  · exact .inl ⟨.inl rfl, by simp⟩
  · cases hp : s.pending with
    | some t => exact .inl ⟨.inr (by simp), by simp⟩
    | none =>
      cases ht : s.todo with
      | some as =>
        refine .inr (.inl ⟨as, rfl, rfl, rfl, ?_⟩)
        simp [engineRun, ht]
      | none =>
        cases hd : decodeLatched s.lcmdHigh0 s.lcmd with
        | ok i => exact .inr (.inr (.inl ⟨i, ⟨hb, ht, hp, hd⟩, by simp⟩))
        | error e => exact .inr (.inr (.inr ⟨e, rfl, rfl, rfl, rfl, by simp⟩))

/-- Everything the engine's turn of one action can do. -/
theorem microTurn_cases (s : State) :
    ((s.busy = false ∨ s.pending ≠ none) ∧ microTurn s = s) ∨
    (∃ as, s.busy = true ∧ s.pending = none ∧ s.todo = some as ∧ microTurn s = microAction as s) ∨
    (∃ i, s.Accepted i ∧ microTurn s = startCommand i s) ∨
    (∃ e, s.busy = true ∧ s.pending = none ∧ s.todo = none ∧ decodeLatched s.lcmdHigh0 s.lcmd = .error e ∧
      microTurn s = s.raise .illegal) := by
  unfold microTurn
  cases hb : s.busy
  · exact .inl ⟨.inl rfl, by simp⟩
  · cases hp : s.pending with
    | some t => exact .inl ⟨.inr (by simp), by simp⟩
    | none =>
      cases ht : s.todo with
      | some as => exact .inr (.inl ⟨as, rfl, rfl, rfl, by simp⟩)
      | none =>
        cases hd : decodeLatched s.lcmdHigh0 s.lcmd with
        | ok i => exact .inr (.inr (.inl ⟨i, ⟨hb, ht, hp, hd⟩, by simp⟩))
        | error e => exact .inr (.inr (.inr ⟨e, rfl, rfl, rfl, rfl, by simp⟩))

/-- The accepted command's meaning is what the engine's turn does. -/
theorem engineTurn_accepted (s : State) (i : Instr) (h : s.Accepted i) : engineTurn s = exec i s := by
  obtain ⟨hb, ht, hp, hd⟩ := h
  simp [engineTurn, hb, ht, hp, hd]

/-- Everything a step can do: one move of one agent. -/
theorem step_cases (s : State) :
    (∃ t r, s.turns = t :: r ∧ step s = takeTurn t { s with turns := r }) ∨
    (s.turns = [] ∧ s.busy = true ∧ s.pending = none ∧ step s = engineTurn s) ∨
    (s.turns = [] ∧ (s.busy = false ∨ s.pending ≠ none) ∧ step s = .next (hostTurn s)) := by
  unfold step
  cases ht : s.turns with
  | cons t r => exact .inl ⟨t, r, rfl, rfl⟩
  | nil =>
    unfold idleTurn
    cases hb : s.busy
    · exact .inr (.inr ⟨rfl, .inl rfl, by simp⟩)
    · cases hp : s.pending with
      | none => exact .inr (.inl ⟨rfl, rfl, rfl, by simp⟩)
      | some x => exact .inr (.inr ⟨rfl, .inr (by simp), by simp⟩)

end Sys2Proof.Machine
end

