-- ==== Sys2Proof/Laws/Counts.lean ====
section
/-!
SUPPORT. How many transactions and payload bytes a run of actions takes, and that it ends once they are answered.
-/

namespace Sys2Proof.Machine

/-- The payload bytes of the transactions among the actions, for a frame of `n` bytes, up to the command's end. -/
def txBytes (n : Nat) : List Action → Nat
  | [] => 0
  | .ready :: _ => 0
  | .zeroFill :: as => txBytes n as
  | .setBit _ _ :: as => txBytes n as
  | .sendCmd _ :: as => 2 + txBytes n as
  | .sendData :: as => 1 + n + txBytes n as

theorem txCount_sendAll (bs : List Byte) (as : List Action) :
    txCount (sendAll bs ++ as) = bs.length + txCount as := by
  induction bs with
  | nil => simp [sendAll]
  | cons b bs ih =>
    rw [show sendAll (b :: bs) ++ as = .sendCmd b :: (sendAll bs ++ as) from rfl, txCount, ih, List.length_cons]
    omega

theorem txBytes_sendAll (n : Nat) (bs : List Byte) (as : List Action) :
    txBytes n (sendAll bs ++ as) = 2 * bs.length + txBytes n as := by
  induction bs with
  | nil => simp [sendAll]
  | cons b bs ih =>
    rw [show sendAll (b :: bs) ++ as = .sendCmd b :: (sendAll bs ++ as) from rfl, txBytes, ih, List.length_cons]
    omega

theorem txCount_setAll (ps : List Point) (v : Bool) : txCount (setAll ps v) = 0 := by
  induction ps with
  | nil => rfl
  | cons p ps ih => exact ih

theorem txCount_flushBody (c : Ctrl) (w h : Nat) (as : List Action) :
    txCount (flushBody c w h ++ as) = 7 + txCount as := by
  rw [flushBody, List.append_assoc, txCount_sendAll]
  simp only [winSeq, List.length_cons, List.length_nil, List.cons_append, List.nil_append, txCount]
  omega

theorem txBytes_flushBody (n : Nat) (c : Ctrl) (w h : Nat) (as : List Action) :
    txBytes n (flushBody c w h ++ as) = 13 + n + txBytes n as := by
  rw [flushBody, List.append_assoc, txBytes_sendAll]
  simp only [winSeq, List.length_cons, List.length_nil, List.cons_append, List.nil_append, txBytes]
  omega

theorem txCount_initActions (c : Ctrl) (w h : Nat) (ext : Bool) : txCount (initActions c w h ext) = 32 := by
  rw [initActions, List.append_assoc, txCount_sendAll, List.cons_append, txCount, txCount_flushBody]
  rfl

theorem txBytes_initActions (n : Nat) (c : Ctrl) (w h : Nat) (ext : Bool) :
    txBytes n (initActions c w h ext) = 63 + n := by
  rw [initActions, List.append_assoc, txBytes_sendAll, List.cons_append, txBytes, txBytes_flushBody]
  simp only [initSeq, List.length_cons, List.length_nil, txBytes]
  omega

/-- The transactions of each command of a READY block. -/
theorem txCount_readyActions (i : Instr) (s : State) :
    txCount (readyActions i s) =
      match i with
      | .init => 0
      | .clear => 0
      | .flush => 7
      | .setPixel => 0
      | .drawLine => 0
      | .contrast => 2
      | .invert => 1
      | .powerOn => 1
      | .powerOff => 1 := by
  cases i
  · rfl
  · rfl
  · have := txCount_flushBody s.cfg.ctrl s.w.toNat s.h.toNat []
    rwa [List.append_nil] at this
  · rfl
  · exact txCount_setAll _ _
  all_goals rfl

/-- With an answer, whichever it is, for each transaction the command ends. -/
theorem runActions_ends (as : List Action) (s : State) (answers : List Answer) (rest : List Turn)
    (h : s.turns = answers.map .answer ++ rest) (hl : txCount as ≤ answers.length) :
    (runActions as s).busy = false ∧ (runActions as s).todo = none ∧ (runActions as s).pending = none := by
  induction as generalizing s answers with
  | nil => exact ⟨rfl, rfl, rfl⟩
  | cons a as ih =>
    have send : ∀ p, a.payload s = some p → txCount (a :: as) = txCount as + 1 →
        (runActions (a :: as) s).busy = false ∧ (runActions (a :: as) s).todo = none ∧
          (runActions (a :: as) s).pending = none := by
      intro p hp hc
      rw [runActions_send a as s p hp]
      cases answers with
      | nil => rw [hc, List.length_nil] at hl; omega
      | cons x xs =>
        unfold transmit
        rw [h]
        cases x
        · exact ih (afterAnswer s p as .ack _) xs rfl (by rw [hc, List.length_cons] at hl; omega)
        · exact ⟨rfl, rfl, rfl⟩
    cases a with
    | zeroFill => exact ih _ answers h hl
    | setBit p v => exact ih _ answers ((fbSetBit_turns s p v).trans h) hl
    | ready => exact ⟨rfl, rfl, rfl⟩
    | sendCmd b => exact send _ rfl rfl
    | sendData => exact send _ rfl rfl

/-- A command that has ended in `complete()` has carried its transactions, each answered ACK. -/
theorem runActions_counts (as : List Action) (s : State) (hb : s.busy = true)
    (h1 : (runActions as s).busy = false) (h2 : (runActions as s).lastfail = false) :
    ∃ ended, (runActions as s).bus = s.bus ++ ended ∧ s.turns = acks (txCount as) ++ (runActions as s).turns ∧
      ended.length = txCount as ∧ (ended.map (·.tx.payload.length)).sum = txBytes s.frameBytes as := by
  induction as generalizing s with
  | nil => exact ⟨[], (List.append_nil _).symm, rfl, rfl, rfl⟩
  | cons a as ih =>
    have send : ∀ p, a.payload s = some p → txCount (a :: as) = txCount as + 1 →
        txBytes s.frameBytes (a :: as) = p.length + txBytes s.frameBytes as →
        ∃ ended, (runActions (a :: as) s).bus = s.bus ++ ended ∧
          s.turns = acks (txCount (a :: as)) ++ (runActions (a :: as) s).turns ∧
          ended.length = txCount (a :: as) ∧
          (ended.map (·.tx.payload.length)).sum = txBytes s.frameBytes (a :: as) := by
      intro p hp hc hn
      rw [runActions_send a as s p hp] at h1 h2 ⊢
      obtain ⟨r, hq, h⟩ | ⟨r, -, h⟩ | ⟨-, h⟩ := transmit_cases s p as (runActions as)
      · rw [h] at h1 h2 ⊢
        obtain ⟨e, e1, e2, e3, e4⟩ := ih (afterAnswer s p as .ack r) hb h1 h2
        refine ⟨acked s.cfg p :: e, ?_, ?_, ?_, ?_⟩
        · rw [e1, afterAnswer_ack]; simp
        · rw [hq, hc, acks, List.replicate_succ, List.cons_append]
          exact congrArg _ e2
        · rw [List.length_cons, e3, hc]
        · rw [List.map_cons, List.sum_cons, e4, hn]; rfl
      · rw [h, afterAnswer_fail] at h2; exact absurd h2 (by simp [State.failed])
      · rw [h] at h1; exact absurd h1 (by simp [hb])
    cases a with
    | zeroFill => exact ih s.zeroFill hb h1 h2
    | setBit p v =>
      have := ih (s.fbSetBit p v) ((fbSetBit_busy s p v).trans hb) h1 h2
      rw [fbSetBit_bus, fbSetBit_turns, frameBytes_fbSetBit] at this
      exact this
    | ready => exact ⟨[], (List.append_nil _).symm, rfl, rfl, rfl⟩
    | sendCmd b => exact send _ rfl rfl rfl
    | sendData =>
      refine send _ rfl rfl ?_
      simp only [dataPayload, State.frame, List.length_cons, List.length_map, List.length_range, txBytes]
      omega

end Sys2Proof.Machine
end

