-- ==== Sys2Proof/Laws/Drawing.lean ====
section
/-!
SUPPORT. The laws of drawing a list of points (42_pixel_line.md R76, R78).
-/

namespace Sys2Proof.Machine

/-- Drawing changes the framebuffer alone. -/
theorem drawAll_rest (s : State) (ps : List Point) (v : Bool) :
    s.drawAll ps v = { s with fb := (s.drawAll ps v).fb } := by
  induction ps generalizing s with
  | nil => rfl
  | cons p ps ih =>
    rw [show s.drawAll (p :: ps) v = (s.fbSetBit p v).drawAll ps v from rfl]
    conv_lhs => rw [ih]
    simp

/-- Every framebuffer bit after drawing: the value where an in-range point of the list falls on it, else as before. -/
theorem fbBit_drawAll (s : State) (ps : List Point) (v : Bool) (i b : Nat) (hb : b < 8) :
    ((s.drawAll ps v).fbRead i).getLsbD b =
      if (∃ p ∈ ps, s.inRange p = true ∧ i = pixIndex s.w.toNat p.x.toNat p.y.toNat ∧ b = p.y.toNat % 8) then v
      else (s.fbRead i).getLsbD b := by
  induction ps generalizing s with
  | nil => simp [State.drawAll]
  | cons p ps ih =>
    rw [show s.drawAll (p :: ps) v = (s.fbSetBit p v).drawAll ps v from rfl, ih, fbBit_fbSetBit s p v i b hb]
    simp only [inRange_fbSetBit, fbSetBit_w, List.exists_mem_cons_iff]
    by_cases h1 : ∃ q ∈ ps, s.inRange q = true ∧ i = pixIndex s.w.toNat q.x.toNat q.y.toNat ∧ b = q.y.toNat % 8
    · simp only [h1, if_true, or_true]
    · simp only [h1, if_false, or_false]

/-- The frame of a zero framebuffer. -/
theorem frame_eq_replicate (s : State) (h : ∀ i, i < s.frameBytes → s.fbRead i = 0x00#8) :
    s.frame = List.replicate s.frameBytes 0x00#8 := by
  unfold State.frame
  rw [List.eq_replicate_iff]
  refine ⟨by simp, fun b hb => ?_⟩
  obtain ⟨i, hi, rfl⟩ := List.mem_map.mp hb
  exact h i (List.mem_range.mp hi)

end Sys2Proof.Machine
end

