-- ==== Sys2Proof/Laws/Host.lean ====
section
/-!
SUPPORT. The laws of the host port: what one presented access does, which word an offset names, and what a host turn and a
transport turn leave alone.
-/

namespace Sys2Proof.Machine

/-- The move of a named turn. -/
theorem step_turn (s : State) (t : Turn) (r : List Turn) (h : s.turns = t :: r) :
    step s = takeTurn t { s with turns := r } := by
  unfold step; rw [h]

/-- `wait` only reads, and goes on or stays. -/
theorem hostWaits_cases (s : State) (v : Word) :
    s.hostWaits v = s.hostReads v ∨ s.hostWaits v = (s.hostReads v).hostAdvance := by
  unfold State.hostWaits; split
  · exact .inl rfl
  · exact .inr rfl

/-- The order of moves plays no part in a host access. -/
theorem hostPerform_turns (s : State) (r : List Turn) (op : HostOp) :
    ({ s with turns := r } : State).hostPerform op = { s.hostPerform op with turns := r } := by
  cases op with
  | wr k v =>
    simp only [State.hostPerform, State.hostStore, State.regStore]
    cases portReg s.cfg k <;> try rfl
    simp only [State.writeStatus]; split <;> rfl
  | rd k => simp only [State.hostPerform, State.hostValue]; cases portReg s.cfg k <;> rfl
  | wait =>
    have e : ({ s with turns := r } : State).hostValue 1#9 = s.hostValue 1#9 := by
      simp only [State.hostValue]; cases portReg s.cfg 1#9 <;> rfl
    simp only [State.hostPerform, State.hostWaits, e]; split <;> rfl

/-- A presented access is held exactly when BUSY = 1 and it is holdable; else it takes effect
(70_reset_and_hazards.md R101, R102). -/
theorem step_host (s : State) (r : List Turn) (op : HostOp) (ops : List HostOp) (h : s.turns = .host :: r)
    (hp : s.hostProg = op :: ops) :
    step s = .next (if s.busy && op.holdable s.cfg then { s with held := true, turns := r }
      else { s.hostPerform op with turns := r }) := by
  rw [step_turn s _ r h, ← hostPerform_turns]
  simp only [takeTurn, hostTurn, hp]

/-- At the widths of this hardware the address lines name every word of the window. -/
theorem portReg_standard {c : Config} (h : c.StandardPort) (k : WordIndex) : portReg c k = hostReg k := by
  unfold portReg
  congr 1
  apply BitVec.eq_of_toNat_eq
  have := k.isLt
  have e : k.offset.toNat = 4 * k.toNat := by
    simp only [WordIndex.offset, BitVec.toNat_append, BitVec.toNat_ofNat, Nat.zero_mod, Nat.or_zero, Nat.shiftLeft_eq]
    omega
  simp only [portIndex, h.2, e, BitVec.toNat_ofNat]
  omega

/-- At the widths of this hardware the data lines carry the whole word. -/
theorem portData_standard {c : Config} (h : c.StandardPort) (v : Word) : portData c v = v := by
  apply BitVec.eq_of_toNat_eq
  have := v.isLt
  simp only [portData, h.1, BitVec.toNat_ofNat]
  omega

/-- A host read at the widths of this hardware. -/
theorem hostValue_standard {s : State} (h : s.cfg.StandardPort) (k : WordIndex) :
    s.hostValue k = s.regValue (hostReg k) := by
  rw [State.hostValue, portData_standard h, portReg_standard h]

/-- A host write at the widths of this hardware. -/
theorem hostStore_standard {s : State} (h : s.cfg.StandardPort) (k : WordIndex) (v : Word) :
    s.hostStore k v = s.regStore (hostReg k) v := by
  rw [State.hostStore, portData_standard h, portReg_standard h]

/-- A host write at the widths of this hardware: held, or the value stored in what the offset names. -/
theorem step_host_wr (s : State) (r : List Turn) (k : WordIndex) (v : Word) (ops : List HostOp)
    (hc : s.cfg.StandardPort) (h : s.turns = .host :: r) (hp : s.hostProg = .wr k v :: ops) :
    step s = .next (if s.busy && (hostReg k).heldWrite then
        { s with held := true, turns := r }
      else { s.regStore (hostReg k) v with hostProg := ops, held := false, turns := r }) := by
  rw [step_host s r _ ops h hp]
  have e : s.hostPerform (.wr k v) = { s.regStore (hostReg k) v with hostProg := ops, held := false } := by
    have : (s.regStore (hostReg k) v).hostProg.tail = ops := by
      have hh : ∀ g, (s.regStore g v).hostProg = s.hostProg := by
        intro g; cases g <;> try rfl
        simp only [State.regStore, State.writeStatus]; split <;> rfl
      rw [hh, hp, List.tail_cons]
    rw [State.hostPerform, hostStore_standard hc, ← this, State.hostAdvance]
  rw [e, HostOp.holdable, portReg_standard hc]

/-- A host read at the widths of this hardware: held, or the value of what the offset names. -/
theorem step_host_rd (s : State) (r : List Turn) (k : WordIndex) (ops : List HostOp) (hc : s.cfg.StandardPort)
    (h : s.turns = .host :: r) (hp : s.hostProg = .rd k :: ops) :
    step s = .next (if s.busy && (hostReg k).heldRead then
        { s with held := true, turns := r }
      else { s with readData := s.regValue (hostReg k), hostProg := ops, held := false, turns := r }) := by
  rw [step_host s r _ ops h hp]
  have e : s.hostPerform (.rd k) = { s with readData := s.regValue (hostReg k), hostProg := ops, held := false } := by
    rw [State.hostPerform, hostValue_standard hc, State.hostReads, State.hostAdvance]
    simp only [hp, List.tail_cons]
  rw [e, HostOp.holdable, portReg_standard hc]

theorem wordAt_toNat (off : Nat) (h1 : off ≤ 0x7FC) (h4 : off % 4 = 0) : (wordAt off).toNat = off / 4 := by
  simp [wordAt]; omega

theorem wordAt_ne (off c : Nat) (h1 : off ≤ 0x7FC) (h4 : off % 4 = 0) (hc : c < 512) (h : off / 4 ≠ c) :
    wordAt off ≠ BitVec.ofNat 9 c := by
  intro e
  have := congrArg BitVec.toNat e
  rw [wordAt_toNat off h1 h4] at this
  simp at this; omega

/-- Offsets 0x018 to 0x3FC are unmapped (20_memory.md R27). -/
theorem hostReg_unmapped (off : Nat) (h4 : off % 4 = 0) (h1 : 0x018 ≤ off) (h2 : off ≤ 0x3FC) :
    hostReg (wordAt off) = .unmapped := by
  have ne : ∀ c, c < 6 → wordAt off ≠ BitVec.ofNat 9 c := fun c hc =>
    wordAt_ne off c (by omega) h4 (by omega) (by omega)
  unfold hostReg
  rw [if_neg (ne 0 (by omega)), if_neg (ne 1 (by omega)), if_neg (ne 2 (by omega)), if_neg (ne 3 (by omega)),
    if_neg (ne 4 (by omega)), if_neg (ne 5 (by omega)), wordAt_toNat off (by omega) h4, if_neg (by omega)]

/-- Offsets 0x400 to 0x7FC are the framebuffer window (20_memory.md R27). -/
theorem hostReg_fbwin (off : Nat) (h4 : off % 4 = 0) (h1 : 0x400 ≤ off) (h2 : off ≤ 0x7FC) :
    hostReg (wordAt off) = .fbwin (off / 4 - 256) := by
  have ne : ∀ c, c < 6 → wordAt off ≠ BitVec.ofNat 9 c := fun c hc =>
    wordAt_ne off c h2 h4 (by omega) (by omega)
  unfold hostReg
  rw [if_neg (ne 0 (by omega)), if_neg (ne 1 (by omega)), if_neg (ne 2 (by omega)), if_neg (ne 3 (by omega)),
    if_neg (ne 4 (by omega)), if_neg (ne 5 (by omega)), wordAt_toNat off h2 h4, if_pos (by omega)]

/-- What no host turn changes: the framebuffer, the geometry, the ports and the parameters. -/
theorem hostTurn_keeps (s : State) :
    (hostTurn s).fb = s.fb ∧ (hostTurn s).bus = s.bus ∧ (hostTurn s).cfg = s.cfg ∧ (hostTurn s).ready = s.ready ∧
    (hostTurn s).w = s.w ∧ (hostTurn s).h = s.h ∧ (hostTurn s).ext = s.ext ∧ (hostTurn s).fbEpoch = s.fbEpoch ∧
    (hostTurn s).turns = s.turns ∧ (hostTurn s).lastfail = s.lastfail := by
  obtain ⟨-, h⟩ | ⟨op, ops, -, -, -, h⟩ | ⟨op, ops, -, -, h⟩ := hostTurn_cases s
  · simp [h]
  · simp [h]
  · rw [h]
    cases op with
    | wr k v =>
      simp only [State.hostPerform, State.hostStore, State.regStore]
      cases portReg s.cfg k <;> simp [State.writeStatus]
      split <;> simp
    | rd k => simp [State.hostPerform]
    | wait => simp only [State.hostPerform, State.hostWaits]; split <;> simp

/-- What no answer of the transport changes, and the one record it adds. -/
theorem answerTurn_keeps (a : Answer) (s : State) :
    (answerTurn a s).fb = s.fb ∧ (answerTurn a s).cfg = s.cfg ∧ (answerTurn a s).ready = s.ready ∧
    (answerTurn a s).w = s.w ∧ (answerTurn a s).h = s.h ∧ (answerTurn a s).ext = s.ext ∧
    (answerTurn a s).fbEpoch = s.fbEpoch ∧
    ((answerTurn a s).bus = s.bus ∨ ∃ x res, s.pending = some x ∧ (answerTurn a s).bus = s.bus ++ [⟨x, res⟩]) := by
  unfold answerTurn
  cases hp : s.pending with
  | none => simp
  | some x =>
    cases a <;> simp only [Option.isSome_some, if_true, State.answered, State.record, hp] <;>
      exact ⟨by trivial, by trivial, by trivial, by trivial, by trivial, by trivial, by trivial,
        .inr ⟨x, _, rfl, rfl⟩⟩

/-- The fields of STATUS as a read shows them (10_state.md R14). -/
theorem status_fields (s : State) :
    s.status.getLsbD 0 = s.busy ∧ s.status.getLsbD 1 = s.ready ∧ s.status.getLsbD 2 = s.err ∧
    s.status.getLsbD 3 = (s.ready && s.ext) ∧ s.status.getLsbD 4 = s.lastfail ∧ s.status.extractLsb' 5 3 = 0#3 ∧
    s.status.extractLsb' 8 4 = (if s.err then s.errcode else 0#4) ∧ s.status.extractLsb' 12 20 = 0#20 := by
  unfold State.status State.extpwr State.errcodeField
  generalize (if s.err = true then s.errcode else 0#4) = c
  generalize s.busy = b0
  generalize s.ready = b1
  generalize s.ext = b2
  generalize s.lastfail = b3
  generalize s.err = b4
  revert c b0 b1 b2 b3 b4
  decide

/-- One more step of a run. -/
theorem run_succ (n : Nat) (s t : State) (h : step s = .next t) :
    Host.Core.run core (n + 1) s = Host.Core.run core n t := by
  have h' : core.step s = .next t := h
  have := Host.Core.run.eq_2 core s n
  rw [h'] at this; exact this

end Sys2Proof.Machine
end

