-- ==== Sys2Proof/Laws/Invariant.lean ====
section
/-!
SUPPORT. The invariant inside a run: what a command that is running keeps (`RunInv`), and that it ends in `State.Inv`.
-/

namespace Sys2Proof.Machine

/-- What holds of the state while a command with the actions `as` left is running. -/
structure RunInv (as : List Action) (s : State) : Prop where
  canonical : s.fb.wf
  inside : ∀ c ∈ s.fb, c.1 < s.cfg.fbCap
  legal : geometryLegal s.cfg s.w.toNat s.h.toNat = true
  filled : s.filled
  notYet : Action.ready ∈ as → s.ready = false
  errcode : s.err = false ↔ s.errcode = 0#4
  codeKnown : s.errcode.toNat ≤ 5
  progress : ∃ i, decodeLatched s.lcmdHigh0 s.lcmd = .ok i ∧ fbActionsBelong i as
  heldAccess : s.held = true → ∃ op ops, s.hostProg = op :: ops ∧ op.holdable s.cfg = true

/-- The order of moves plays no part in the invariant. -/
theorem State.Inv.withTurns {s : State} (h : s.Inv) (r : List Turn) : ({ s with turns := r } : State).Inv :=
  ⟨h.canonical, h.inside, h.geometry, h.notYet, h.errcode, h.codeKnown, h.idle, h.running, h.progress, h.heldAccess⟩

/-- A command that has ended with an error. -/
theorem inv_raise (s : State) (c : ErrCode) (h1 : s.fb.wf) (h2 : ∀ c ∈ s.fb, c.1 < s.cfg.fbCap)
    (h3 : s.ready = true → geometryLegal s.cfg s.w.toNat s.h.toNat = true ∧ s.filled)
    (h4 : s.held = true → ∃ op ops, s.hostProg = op :: ops ∧ op.holdable s.cfg = true) : (s.raise c).Inv := by
  refine ⟨h1, h2, ?_, ?_, ?_, ?_, ?_, ?_, ?_, h4⟩
  · rintro (h | h)
    · exact h3 h
    · simp at h
  · intro as h; simp at h
  · cases c <;> simp [ErrCode.code]
  · cases c <;> simp [ErrCode.code]
  · intro _; exact ⟨rfl, rfl⟩
  · intro h; simp at h
  · intro as h; simp at h

/-- Fewer actions are left of the same command. -/
theorem RunInv.left {as bs : List Action} {s : State} (h : RunInv as s) (hs : bs ⊆ as) :
    ∃ i, decodeLatched s.lcmdHigh0 s.lcmd = .ok i ∧ fbActionsBelong i bs :=
  have ⟨i, hd, hw⟩ := h.progress
  ⟨i, hd, fun a ha => hw a (hs ha)⟩

/-- The zero fill keeps it. -/
theorem RunInv.zeroFill {as : List Action} {s : State} (h : RunInv (.zeroFill :: as) s) : RunInv as s.zeroFill := by
  refine ⟨wf_fill _ _ _ h.canonical, ?_, h.legal, ?_, fun hm => h.notYet (List.mem_cons_of_mem _ hm), h.errcode,
    h.codeKnown, h.left (List.subset_cons_self _ _), h.heldAccess⟩
  · intro c hc
    rcases mem_fill _ _ _ c hc with hc | hc
    · have := frame_fits _ _ _ h.legal
      exact Nat.lt_of_lt_of_le hc this
    · exact h.inside c hc
  · intro i hi
    rw [zeroFill_fb, read?_fill, if_pos (show i < s.frameBytes from hi)]; rfl

/-- `FbSetBit` keeps it. -/
theorem RunInv.setBit {p : Point} {v : Bool} {as : List Action} {s : State} (h : RunInv (.setBit p v :: as) s) :
    RunInv as (s.fbSetBit p v) := by
  have e : (s.fbSetBit p v).cfg = s.cfg := by simp
  refine ⟨wf_fbSetBit s p v h.canonical, ?_, by simpa using h.legal, ?_,
    fun hm => by simpa using h.notYet (List.mem_cons_of_mem _ hm), by simpa using h.errcode,
    by simpa using h.codeKnown, by simpa using h.left (List.subset_cons_self _ _), by simpa using h.heldAccess⟩
  · rw [e]
    unfold State.fbSetBit
    split
    · rename_i hr
      rw [inRange_iff] at hr
      intro c hc
      rcases mem_write _ _ _ c hc with rfl | hc
      · have hl := (geometryLegal_iff _ _ _).mp h.legal
        exact Nat.lt_of_lt_of_le (pixIndex_lt _ _ _ _ hl.2.2.2.2 (by omega) (by omega)) (frame_fits _ _ _ h.legal)
      · exact h.inside c hc
    · exact h.inside
  · intro i hi
    exact read?_fbSetBit_isSome s p v i (h.filled i (by simpa using hi))

/-- A command that waits, or is between two actions. -/
theorem RunInv.inv {as : List Action} {s : State} (h : RunInv as s) (x : Option (List Action))
    (y : Option Transaction) (hx : s.busy = true)
    (hs : ∀ z, x = some z → z ⊆ as) (hy : y ≠ none → x ≠ none) :
    (s.atProgress x y).Inv := by
  refine ⟨h.canonical, h.inside, fun _ => ⟨h.legal, h.filled⟩, ?_, h.errcode, h.codeKnown, ?_, hy,
    fun z hz => h.left (hs z hz), h.heldAccess⟩
  · intro z hz hm; exact h.notYet (hs z hz hm)
  · intro hb; exact absurd hb (by simp [State.atProgress, hx])

/-- A command that has ended in `complete()`. -/
theorem RunInv.complete {as : List Action} {s : State} (h : RunInv as s) : s.complete.Inv :=
  ⟨h.canonical, h.inside, fun _ => ⟨h.legal, h.filled⟩, by intro as hh; simp at hh, h.errcode, h.codeKnown,
    fun _ => ⟨rfl, rfl⟩, by simp, by intro as hh; simp at hh, h.heldAccess⟩

/-- INIT that has ended. -/
theorem RunInv.completeInit {as : List Action} {s : State} (h : RunInv as s) : s.completeInit.Inv :=
  ⟨h.canonical, h.inside, fun _ => ⟨h.legal, h.filled⟩, by intro as hh; simp at hh, h.errcode, h.codeKnown,
    fun _ => ⟨rfl, rfl⟩, by simp, by intro as hh; simp at hh, h.heldAccess⟩

/-- A run of a command's actions ends, or waits, in the invariant. -/
theorem runActions_inv (as : List Action) (s : State) (h : RunInv as s) (hb : s.busy = true) :
    (runActions as s).Inv := by
  induction as generalizing s with
  | nil => exact h.complete
  | cons a as ih =>
    have send : ∀ p, a.payload s = some p → (runActions (a :: as) s).Inv := by
      intro p hp
      rw [runActions_send a as s p hp]
      obtain ⟨r, -, hh⟩ | ⟨r, -, hh⟩ | ⟨-, hh⟩ := transmit_cases s p as (runActions as)
      · rw [hh]
        refine ih _ ?_ hb
        exact ⟨h.canonical, h.inside, h.legal, h.filled, fun hm => h.notYet (List.mem_cons_of_mem _ hm), h.errcode,
          h.codeKnown, h.left (List.subset_cons_self _ _), h.heldAccess⟩
      · rw [hh]
        exact inv_raise _ _ h.canonical h.inside (fun _ => ⟨h.legal, h.filled⟩) h.heldAccess
      · rw [hh]
        exact h.inv (some as) (some _) hb (by rintro z ⟨⟩; exact List.subset_cons_self _ _) (by simp)
    cases a with
    | zeroFill => exact ih _ h.zeroFill hb
    | setBit p v => exact ih _ h.setBit (by simpa using hb)
    | ready => exact h.completeInit
    | sendCmd b => exact send _ rfl
    | sendData => exact send _ rfl

/-- A READY block, or a command that runs, is ready to do actions. -/
theorem State.Inv.toRunInv {s : State} (h : s.Inv) (as : List Action) (hg : s.ready = true ∨ s.todo ≠ none)
    (hr : Action.ready ∈ as → s.ready = false)
    (hp : ∃ i, decodeLatched s.lcmdHigh0 s.lcmd = .ok i ∧ fbActionsBelong i as) : RunInv as s :=
  ⟨h.canonical, h.inside, (h.geometry hg).1, (h.geometry hg).2, hr, h.errcode, h.codeKnown, hp, h.heldAccess⟩

/-- INIT, once its geometry is accepted. -/
theorem initBegun_runInv (s : State) (h : s.Inv) (as : List Action) (hr : s.ready = false)
    (hd : decodeLatched s.lcmdHigh0 s.lcmd = .ok .init)
    (hg : geometryLegal s.cfg s.width.toNat s.height.toNat = true) : RunInv as (initBegun s) := by
  refine ⟨wf_fill _ _ _ h.canonical, ?_, hg, ?_, fun _ => hr, h.errcode, h.codeKnown,
    ⟨.init, hd, fun _ _ _ => rfl⟩, h.heldAccess⟩
  · intro c hc
    rcases mem_fill _ _ _ c hc with hc | hc
    · exact Nat.lt_of_lt_of_le hc (frame_fits _ _ _ hg)
    · exact h.inside c hc
  · intro i hi
    unfold initBegun
    rw [zeroFill_fb, read?_fill,
      if_pos (show i < (s.setGeometry s.width s.height s.extIn).frameBytes from hi)]
    rfl

end Sys2Proof.Machine
end

