-- ==== Sys2Proof/Laws/Line.lean ====
section
/-!
SUPPORT. The laws of the line rasterizer: the loop of the reference algorithm takes unit steps, visits each major coordinate
once, and its inner `while` runs at most once (42_pixel_line.md R73 to R75).
-/

namespace Sys2Proof.Machine

/-- 8-adjacency as the rule writes it (42_pixel_line.md R73 (b)). -/
theorem adjacent_iff (p q : Point) : adjacent p q = true ↔ max (q.x - p.x).natAbs (q.y - p.y).natAbs = 1 := by
  simp [adjacent]

/-- Two consecutive points of a sequence without gaps are adjacent. -/
theorem noGaps_getElem? (ps : List Point) (h : noGaps ps = true) (k : Nat) (a b : Point) (ha : ps[k]? = some a)
    (hb : ps[k + 1]? = some b) : adjacent a b = true := by
  induction ps generalizing k with
  | nil => simp at ha
  | cons p ps ih =>
    cases ps with
    | nil => simp at hb
    | cons q ps =>
      simp only [noGaps, Bool.and_eq_true] at h
      cases k with
      | zero => simp at ha hb; subst ha hb; exact h.1
      | succ k => exact ih h.2 k (by simpa using ha) (by simpa using hb)

theorem refLoop_length (steep : Bool) (sx sy dx dy : Int) (n : Nat) (a b e : Int) :
    (refLoop steep sx sy dx dy n a b e).length = n := by
  induction n generalizing a b e with
  | zero => rfl
  | succ n ih => simp [refLoop, ih]

/-- The inner `while`, entered with `e < 2*dx`, runs at most once (42_pixel_line.md R75 (1)). -/
theorem minorWhile_once (fuel : Nat) (sy dx e b : Int) (hf : 1 ≤ fuel) (he : e < 2 * dx) :
    minorWhile sy dx fuel (b, e) = (if e ≥ 0 then b + sy else b, if e ≥ 0 then e - 2 * dx else e) := by
  obtain ⟨f, rfl⟩ : ∃ f, fuel = f + 1 := ⟨fuel - 1, by omega⟩
  rw [minorWhile]
  by_cases h : e ≥ 0
  · simp only [h, if_true]
    cases f with
    | zero => rfl
    | succ f => rw [minorWhile, if_neg]; simp only; omega
  · simp [h]

theorem refPoint_inj (steep : Bool) (a b c d : Int) (h : refPoint steep a b = refPoint steep c d) :
    a = c ∧ b = d := by
  cases steep <;> simp [refPoint] at h <;> tauto

/-- The loop followed by its end point takes unit steps only. `r` is how often the minor coordinate is still to move,
which the error term `e` determines. -/
theorem refLoop_noGaps (st : Bool) (sx sy dx dy : Int) (hsx : sx = 1 ∨ sx = -1) (hsy : sy = 1 ∨ sy = -1)
    (h0 : 0 ≤ dy) (h1 : dy ≤ dx) (h2 : 0 < dx) :
    ∀ (n : Nat) (a b e r : Int), e < 2*dx → 2*dy - 2*dx ≤ e → e = 2*dx*r - 2*dy*(n-1) - dx →
    noGaps (refLoop st sx sy dx dy n a b e ++ [refPoint st (a + n*sx) (b + r*sy)]) = true ∧
    (refLoop st sx sy dx dy n a b e ++ [refPoint st (a + n*sx) (b + r*sy)]).head? =
      some (refPoint st a (if n = 0 then b + r*sy else b)) := by
  intro n
  induction n with
  | zero => intro a b e r _ _ _; simp [refLoop, noGaps]
  | succ n ih =>
    intro a b e r he1 he2 hr
    refine ⟨?_, by simp [refLoop]⟩
    set b' := if e ≥ 0 then b + sy else b with hb'
    set e' := (if e ≥ 0 then e - 2 * dx else e) + 2 * dy with he'
    have hr' : ∃ r', b + r*sy = b' + r'*sy ∧ (e' = 2*dx*r' - 2*dy*(n-1) - dx) := by
      by_cases h : e ≥ 0
      · refine ⟨r-1, ?_, ?_⟩
        · simp only [hb', h, if_true]; ring
        · simp only [he', h, if_true]; push_cast at hr; rw [hr]; ring
      · refine ⟨r, ?_, ?_⟩
        · simp only [hb', h, if_false]
        · simp only [he', h, if_false]; push_cast at hr; rw [hr]; ring
    obtain ⟨r', hr1, hr2⟩ := hr'
    have hpt : refPoint st (a + (n+1 : ℕ) * sx) (b + r*sy) = refPoint st ((a+sx) + n*sx) (b' + r'*sy) := by
      rw [hr1]; congr 1; push_cast; ring
    have hlt : e' < 2*dx := by simp only [he']; split <;> omega
    have hge : 2*dy - 2*dx ≤ e' := by simp only [he']; split <;> omega
    obtain ⟨g1, g2⟩ := ih (a+sx) b' e' r' hlt hge hr2
    rw [hpt]
    rw [refLoop, List.cons_append]
    set L := refLoop st sx sy dx dy n (a + sx) b' e' ++ [refPoint st (a + sx + ↑n * sx) (b' + r' * sy)] with hL
    have : ∃ q L', L = q :: L' ∧ q = refPoint st (a+sx) (if n = 0 then b' + r'*sy else b') := by
      cases hh : L with
      | nil => rw [hh] at g2; simp at g2
      | cons q L' => rw [hh] at g2; simp at g2; exact ⟨q, L', rfl, g2⟩
    obtain ⟨q, L', hq, hq2⟩ := this
    rw [hq, noGaps, ← hq, g1, Bool.and_true, hq2, adjacent_iff]
    have hbb : ∃ d : Int, (d = 0 ∨ d = 1 ∨ d = -1) ∧ (if n = 0 then b' + r'*sy else b') = b + d := by
      by_cases hn : n = 0
      · subst hn
        simp only [if_true]
        push_cast at hr2
        -- r' relation: e' = 2dx r' + 2dy - dx, with b + r sy
        have hrr : r = 0 ∨ r = 1 := by
          push_cast at hr
          have hr3 : e = 2*dx*r - dx := by rw [hr]; ring
          have : r < 2 := by nlinarith
          have : -1 < r := by nlinarith
          omega
        rw [← hr1]
        rcases hrr with rfl | rfl
        · exact ⟨0, by simp, by ring⟩
        · rcases hsy with rfl | rfl
          · exact ⟨1, by simp, by ring⟩
          · exact ⟨-1, by simp, by ring⟩
      · simp only [hn, if_false, hb']
        by_cases h : e ≥ 0
        · simp only [h, if_true]; rcases hsy with rfl | rfl
          · exact ⟨1, by simp, by ring⟩
          · exact ⟨-1, by simp, by ring⟩
        · exact ⟨0, by simp, by simp [h]⟩
    obtain ⟨d, hd, hd2⟩ := hbb
    rw [hd2]
    rcases hsx with rfl | rfl <;> rcases hd with rfl | rfl | rfl <;> cases st <;> simp [refPoint]

/-- The major coordinate of the `k`-th point of the loop is `a + k * sx`. -/
theorem refLoop_major (st : Bool) (sx sy dx dy : Int) :
    ∀ (n : Nat) (a b e : Int), ∀ p ∈ refLoop st sx sy dx dy n a b e,
      ∃ k : Nat, k < n ∧ ∃ c, p = refPoint st (a + k * sx) c := by
  intro n
  induction n with
  | zero => intro a b e p hp; simp [refLoop] at hp
  | succ n ih =>
    intro a b e p hp
    rw [refLoop, List.mem_cons] at hp
    rcases hp with rfl | hp
    · exact ⟨0, by omega, b, by simp⟩
    · obtain ⟨k, hk, c, hc⟩ := ih _ _ _ p hp
      exact ⟨k+1, by omega, c, by rw [hc]; congr 1; push_cast; ring⟩

/-- The loop followed by its end point visits no point twice. -/
theorem refLoop_nodup (st : Bool) (sx sy dx dy : Int) (hsx : sx = 1 ∨ sx = -1) :
    ∀ (n : Nat) (a b e z : Int), (refLoop st sx sy dx dy n a b e ++ [refPoint st (a + n * sx) z]).Nodup := by
  intro n
  induction n with
  | zero => intro a b e z; simp [refLoop]
  | succ n ih =>
    intro a b e z
    rw [refLoop, List.cons_append, List.nodup_cons]
    constructor
    · intro hm
      rw [List.mem_append] at hm
      rcases hm with hm | hm
      · obtain ⟨k, hk, c, hc⟩ := refLoop_major _ _ _ _ _ _ _ _ _ _ hm
        have := (refPoint_inj _ _ _ _ _ hc).1
        rcases hsx with rfl | rfl <;> omega
      · rw [List.mem_singleton] at hm
        have := (refPoint_inj _ _ _ _ _ hm).1
        rcases hsx with rfl | rfl <;> push_cast at this <;> omega
    · have := ih (a+sx) (if e ≥ 0 then b + sy else b) ((if e ≥ 0 then e - 2 * dx else e) + 2 * dy) z
      rw [show a + ((n+1 : ℕ):Int) * sx = a + sx + n*sx by push_cast; ring]
      exact this

end Sys2Proof.Machine
end

