-- ==== Sys2Proof/Laws/PerInstr.lean ====
section
/-!
SUPPORT. A fact about each command as syntax: its word is a legal command word and its opcode lies in the map.
-/

namespace Sys2Proof.Laws.Opcode

/-- The command's word is a legal command word whose low byte is the opcode (30_encoding.md R46, R47). -/
def Statement (i : Instr) : Prop :=
  i.wf = true ∧ opcodeLegal i.opcode = true ∧ (encode i).extractLsb' 0 8 = i.opcode ∧ reservedZero (encode i) = true

theorem init : Statement .init := ⟨rfl, rfl, rfl, rfl⟩
theorem clear : Statement .clear := ⟨rfl, rfl, rfl, rfl⟩
theorem flush : Statement .flush := ⟨rfl, rfl, rfl, rfl⟩
theorem setPixel : Statement .setPixel := ⟨rfl, rfl, rfl, rfl⟩
theorem drawLine : Statement .drawLine := ⟨rfl, rfl, rfl, rfl⟩
theorem contrast : Statement .contrast := ⟨rfl, rfl, rfl, rfl⟩
theorem invert : Statement .invert := ⟨rfl, rfl, rfl, rfl⟩
theorem powerOn : Statement .powerOn := ⟨rfl, rfl, rfl, rfl⟩
theorem powerOff : Statement .powerOff := ⟨rfl, rfl, rfl, rfl⟩

end Sys2Proof.Laws.Opcode
end

