-- ==== Sys2Proof/Tests/Slice0.lean ====
section
/-!
SUPPORT. Tests of the model against the vectors of 95_test_vectors.md (named V<n> in each test), the refusals of the
well-formedness checks, words decoded bit by bit, and a witness for the hypotheses of every obligation that has any.
-/

namespace Sys2Proof.Tests

open Sys2Proof Sys2Proof.Machine

/-! ## Small states -/

/-- A READY block of `w x h` pixels whose framebuffer holds zeros. -/
def readyState (w h : Nat) : State :=
  { State.reset with
    ready := true, w := BitVec.ofNat 16 w, h := BitVec.ofNat 16 h, fb := Memory.fill [] (h / 8 * w) 0x00#8 }

/-- The block with the latched arguments of an accepted command. -/
def acceptedWith (s : State) (a0 a1 a2 : Word) : State :=
  { s with busy := true, larg0 := a0, larg1 := a1, larg2 := a2 }

/-- An uninitialised block with an INIT accepted. -/
def initState (a0 a2 : Word) (order : List Turn) : State :=
  { acceptedWith State.reset a0 0#32 a2 with lcmd := 0x01#8, turns := order }

/-- The state the command ends in; the state itself if there is none. -/
def after (i : Instr) (s : State) : State :=
  match exec i s with
  | .next t => t
  | .fault _ => s
  | .refused _ => s

/-- The state after `n` steps; the state itself if there is none. -/
def afterSteps (n : Nat) (s : State) : State :=
  match Host.Core.run core n s with
  | .next t => t
  | .fault _ => s
  | .refused _ => s

/-- `cmd(b)` of 95_test_vectors.md: the payload `[0x80, b]`. -/
def cmd (b : Byte) : List Byte := [0x80#8, b]

/-- The payloads that have left on the transport port. -/
def sentBytes (s : State) : List (List Byte) := s.bus.map (·.tx.payload)

/-- The host presents the one access `op` to a READY block of 8 x 8 pixels, with BUSY as given. -/
def hostState (busy : Bool) (op : HostOp) : State :=
  { readyState 8 8 with busy := busy, hostProg := [op], turns := [.host] }

/-- A FLUSH that waits for the answer to its first transaction. -/
def flushing : State :=
  { readyState 8 8 with
    busy := true, lcmd := 0x03#8, todo := some ((flushBody Ctrl.standard 8 8).drop 1),
    pending := some ⟨0x3C#7, cmd 0x21#8⟩ }

/-! ## Well-formedness: what the checks refuse -/

/-- R48: opcode 0x00 and opcode 0x0A to 0xFF are no commands. -/
theorem test_opcode_ill_formed :
    opcodeLegal 0x00#8 = false ∧ opcodeLegal 0x0A#8 = false ∧ opcodeLegal 0xFF#8 = false ∧
    opcodeLegal 0x01#8 = true ∧ opcodeLegal 0x09#8 = true := by decide

/-- R47: a reserved bit set. -/
theorem test_reserved_ill_formed :
    reservedZero 0x00000100#32 = false ∧ reservedZero 0x80000001#32 = false ∧
    reservedZero 0x000000FF#32 = true := by decide

/-- V66, V67, V68: the three words are ILLEGAL. -/
theorem test_command_word_ill_formed :
    cmdWordLegal 0x0000000A#32 = false ∧ cmdWordLegal 0x00000000#32 = false ∧
    cmdWordLegal 0x00000104#32 = false := by decide

/-- R57: operands the expansion cannot carry. -/
theorem test_pseudo_ill_formed :
    (Pseudo.init 65536 8 0).wf = false ∧ (Pseudo.setPixel 0 0 (-1)).wf = false ∧
    (Pseudo.drawLine 0 0 1 1 4294967296).wf = false ∧ (Pseudo.contrast (-1)).wf = false ∧
    (Pseudo.invert 4294967296).wf = false ∧ (Pseudo.setPixel (-1) (-1) 0).wf = true := by decide

/-- R60, V8, V9: geometries INIT refuses. -/
theorem test_geometry_ill_formed :
    geometryLegal Config.standard 128 60 = false ∧ geometryLegal Config.standard 0 64 = false ∧
    geometryLegal Config.standard 129 64 = false ∧ geometryLegal Config.standard 128 0 = false ∧
    geometryLegal Config.standard 128 72 = false ∧ geometryLegal Config.standard 1 8 = true := by decide

/-! ## Decoding: words written out bit by bit from R45 to R48 of 30_encoding.md -/

theorem test_decode_init : decode 0b00000000000000000000000000000001#32 = .ok .init := by decide
theorem test_decode_clear : decode 0b00000000000000000000000000000010#32 = .ok .clear := by decide
theorem test_decode_flush : decode 0b00000000000000000000000000000011#32 = .ok .flush := by decide
theorem test_decode_setPixel : decode 0b00000000000000000000000000000100#32 = .ok .setPixel := by decide
theorem test_decode_drawLine : decode 0b00000000000000000000000000000101#32 = .ok .drawLine := by decide
theorem test_decode_contrast : decode 0b00000000000000000000000000000110#32 = .ok .contrast := by decide
theorem test_decode_invert : decode 0b00000000000000000000000000000111#32 = .ok .invert := by decide
theorem test_decode_powerOn : decode 0b00000000000000000000000000001000#32 = .ok .powerOn := by decide
theorem test_decode_powerOff : decode 0b00000000000000000000000000001001#32 = .ok .powerOff := by decide

/-- R48: the refusals by name. -/
theorem test_decode_illegal :
    decode 0x00000104#32 = .error .reservedBits ∧ decode 0x00000000#32 = .error (.opcode 0x00#8) ∧
    decode 0x0000000A#32 = .error (.opcode 0x0A#8) := by decide

/-- The host's view of a table row: decoding the word, and running it as the very next step. -/
theorem test_table_word :
    decodeTableWord 32 4 = some .setPixel ∧ decodeTableWord 32 10 = none ∧
    (afterSteps 1 (State.reset.withFetchWord 32 4)).errcode = 3#4 := by decide

/-! ## The commands -/

/-- V5: `INIT 1, 8, 0` from reset, all ACK. -/
theorem test_init_1x8 :
    sentBytes (after .init (initState 0x00080001#32 0#32 (acks 32))) =
      ([0xAE#8, 0x20#8, 0x00#8, 0x40#8, 0xA1#8, 0xA8#8, 0x07#8, 0xC8#8, 0xD3#8, 0x00#8, 0xDA#8, 0x12#8, 0xD5#8, 0x80#8,
        0xD9#8, 0xF1#8, 0xDB#8, 0x30#8, 0x81#8, 0xFF#8, 0xA4#8, 0xA6#8, 0x8D#8, 0x14#8, 0xAF#8, 0x21#8, 0x00#8, 0x00#8,
        0x22#8, 0x00#8, 0x00#8].map cmd) ++ [[0x40#8, 0x00#8]] ∧
    (after .init (initState 0x00080001#32 0#32 (acks 32))).status = 0x00000002#32 ∧
    (after .init (initState 0x00080001#32 0#32 (acks 32))).geom = 0x00080001#32 := by decide

/-- V12: the first transaction answered FAIL. -/
theorem test_init_fails :
    sentBytes (after .init (initState 0x00400080#32 0#32 [.answer .fail])) = [cmd 0xAE#8] ∧
    (after .init (initState 0x00400080#32 0#32 [.answer .fail])).status = 0x00000114#32 := by decide

/-- V19, and V18 on an uninitialised block. -/
theorem test_clear :
    (after .clear (acceptedWith { readyState 1 8 with fb := [(0, 0x80#8)] } 0#32 0#32 0#32)).fb = [(0, 0x00#8)] ∧
    (after .clear (acceptedWith State.reset 0#32 0#32 0#32)).status = 0x00000314#32 := by decide

/-- V23's window, on one page: `W = 64` is shifted by 32. -/
theorem test_flush_window :
    winSeq Ctrl.standard 64 64 = [0x21#8, 0x20#8, 0x5F#8, 0x22#8, 0x00#8, 0x07#8] ∧
    winSeq Ctrl.standard 96 16 = [0x21#8, 0x00#8, 0x5F#8, 0x22#8, 0x00#8, 0x01#8] := by decide

/-- V25 on 8 x 8 pixels: the third transaction fails, and no data is sent. -/
theorem test_flush_fails :
    sentBytes (after .flush { acceptedWith (readyState 8 8) 0#32 0#32 0#32 with
      turns := acks 2 ++ [.answer .fail] }) = [cmd 0x21#8, cmd 0x00#8, cmd 0x07#8] ∧
    (after .flush { acceptedWith (readyState 8 8) 0#32 0#32 0#32 with
      turns := acks 2 ++ [.answer .fail] }).status = 0x00000116#32 := by decide

/-- V27, on a framebuffer of which byte 131 is listed. -/
theorem test_setPixel :
    (after .setPixel (acceptedWith { readyState 0 0 with w := 128#16, h := 64#16, fb := [(131, 0x00#8)] }
      0x000A0003#32 0#32 1#32)).fb = [(131, 0x04#8)] := by decide

/-- V32 and V34: VALUE is ARG2[7:0] alone, and Y = -1 is out of range. -/
theorem test_setPixel_operands :
    (after .setPixel (acceptedWith { readyState 0 0 with w := 128#16, h := 64#16, fb := [(131, 0x04#8)] }
      0x000A0003#32 0#32 0x00000100#32)).fb = [(131, 0x00#8)] ∧
    (after .setPixel (acceptedWith { readyState 0 0 with w := 128#16, h := 64#16, fb := [(131, 0x04#8)] }
      0xFFFF0003#32 0#32 1#32)).fb = [(131, 0x04#8)] := by decide

/-- V38 on 8 x 8 pixels. -/
theorem test_drawLine :
    ((after .drawLine (acceptedWith (readyState 8 8) 0#32 0x00030007#32 1#32)).fb.map (·.2)) =
      [0x01#8, 0x01#8, 0x02#8, 0x02#8, 0x04#8, 0x04#8, 0x08#8, 0x08#8] := by decide

/-- V41: the line from the other end draws other points than V40 (R75 (4)). -/
theorem test_drawLine_points :
    refLine ⟨4, 2⟩ ⟨0, 0⟩ = [⟨4, 2⟩, ⟨3, 1⟩, ⟨2, 1⟩, ⟨1, 0⟩, ⟨0, 0⟩] ∧
    refLine ⟨0, 0⟩ ⟨4, 2⟩ = [⟨0, 0⟩, ⟨1, 1⟩, ⟨2, 1⟩, ⟨3, 2⟩, ⟨4, 2⟩] := by decide

/-- V58 and V61. -/
theorem test_contrast :
    sentBytes (after .contrast { acceptedWith (readyState 8 8) 0#32 0#32 0x000001FF#32 with turns := acks 2 }) =
      [cmd 0x81#8, cmd 0xFF#8] ∧
    (after .contrast { acceptedWith (readyState 8 8) 0#32 0#32 0x10#32 with
      turns := [.answer .ack, .answer .fail] }).status = 0x00000116#32 := by decide

/-- V62: FLAG is ARG2 bit 0 alone. -/
theorem test_invert :
    sentBytes (after .invert { acceptedWith (readyState 8 8) 0#32 0#32 3#32 with turns := acks 1 }) =
      [cmd 0xA7#8] ∧
    sentBytes (after .invert { acceptedWith (readyState 8 8) 0#32 0#32 2#32 with turns := acks 1 }) =
      [cmd 0xA6#8] := by decide

/-- V63, V65. -/
theorem test_powerOn :
    sentBytes (after .powerOn { acceptedWith (readyState 8 8) 0#32 0#32 0#32 with turns := acks 1 }) =
      [cmd 0xAF#8] ∧
    (after .powerOn (acceptedWith State.reset 0#32 0#32 0#32)).status = 0x00000314#32 := by decide

/-- V64: READY stays 1. -/
theorem test_powerOff :
    sentBytes (after .powerOff { acceptedWith (readyState 8 8) 0#32 0#32 0#32 with turns := acks 1 }) =
      [cmd 0xAE#8] ∧
    (after .powerOff { acceptedWith (readyState 8 8) 0#32 0#32 0#32 with turns := acks 1 }).status =
      0x00000002#32 := by decide

/-! ## The host port -/

/-- V70 and V72: clearing ERR; LASTFAIL stays. -/
theorem test_clrErr :
    (afterSteps 1 { hostState false (.wr (wordAt 0x004) 4#32) with
      err := true, errcode := 2#4, lastfail := true }).status = 0x00000012#32 ∧
    (afterSteps 1 { hostState false (.wr (wordAt 0x004) 0xFFFFFFFB#32) with
      err := true, errcode := 2#4, lastfail := true }).status = 0x00000216#32 := by decide

/-- V80: STATUS during a FLUSH. V81: ARG0 is written at once. -/
theorem test_busy_accesses :
    (afterSteps 1 { flushing with hostProg := [.rd (wordAt 0x004)], turns := [.host] }).readData = 3#32 ∧
    (afterSteps 1 { flushing with
      hostProg := [.wr (wordAt 0x008) 0x00050005#32], turns := [.host] }).arg0 = 0x00050005#32 := by decide

/-- V82: a CMD write during a FLUSH is held until it has ended. -/
theorem test_held_command :
    (afterSteps 1 { flushing with hostProg := [.wr (wordAt 0x000) 4#32], turns := [.host] }).held = true ∧
    (afterSteps 1 { flushing with hostProg := [.wr (wordAt 0x000) 4#32], turns := [.host] }).lcmd = 0x03#8 ∧
    (afterSteps 4 { flushing with
      hostProg := [.wr (wordAt 0x000) 4#32],
      turns := [.host, .answer .fail, .host, .engine] }).lcmd = 0x04#8 := by decide

/-- V37: window bytes at or above `PAGES * W` read 0. -/
theorem test_window_word :
    ({ readyState 1 8 with fb := [(0, 0x80#8)] } : State).winWord 0 = 0x00000080#32 := by decide

/-- V84: reset in the middle of a FLUSH. -/
theorem test_reset :
    (afterSteps 1 { flushing with arg0 := 5#32, turns := [.reset] }).status = 0#32 ∧
    (afterSteps 1 { flushing with arg0 := 5#32, turns := [.reset] }).arg0 = 0#32 ∧
    (afterSteps 1 { flushing with turns := [.reset] }).bus =
      [⟨⟨0x3C#7, cmd 0x21#8⟩, .abandoned⟩] := by decide

/-- R57: `wait` during a FLUSH reads STATUS and stays; after it has ended it goes on. -/
theorem test_wait :
    (afterSteps 1 { flushing with hostProg := [.wait], turns := [.host] }).hostProg = [.wait] ∧
    (afterSteps 1 { flushing with hostProg := [.wait], turns := [.host] }).readData = 3#32 ∧
    (afterSteps 1 (hostState false .wait)).hostProg = [] := by decide

/-- R13: CMD reads 0, BUSY or not. -/
theorem test_cmd_reads_zero (busy : Bool) :
    (afterSteps 1 { hostState busy (.rd (wordAt 0x000)) with lcmd := 4#8, readData := 7#32 }).readData = 0#32 := by
  cases busy <;> decide

/-- R5: the widths are the configuration's. -/
theorem test_narrow_widths :
    (wordPoint { Config.standard with coordBits := 4 } 0x0018000F#32) = ⟨-1, -8⟩ ∧
    (afterSteps 1 { hostState false (.wr (wordAt 0x008) 0x12345678#32) with
      cfg := { Config.standard with hostDataBits := 8 } }).arg0 = 0x78#32 ∧
    (afterSteps 1 { hostState false (.wr (wordAt 0x018) 5#32) with
      cfg := { Config.standard with hostAddrBits := 4 } }).arg0 = 5#32 := by decide

/-- The example program of R57, `SET_PIXEL 3, -1, 1`, as (offset, value) pairs. -/
theorem test_encodeProgram :
    encodeProgram (Pseudo.setPixel 3 (-1) 1).expand =
      [(0x008, 0xFFFF0003#32), (0x010, 1#32), (0x000, 4#32)] := by decide

/-! ## Witnesses: states and operands that meet the hypotheses of each obligation -/

/-- A READY block that runs the FLUSH of `flushing` meets the invariant. -/
theorem witness_flushing_inv : flushing.Inv where
  canonical := by decide
  inside := by decide
  geometry := fun _ => ⟨by decide, by unfold State.filled; decide⟩
  notYet := by
    intro as h
    cases h
    simp [flushBody, winSeq, sendAll]
  errcode := by decide
  codeKnown := by decide
  idle := by decide
  running := by decide
  progress := by
    intro as h
    cases h
    exact ⟨.flush, rfl, by unfold fbActionsBelong; decide⟩
  heldAccess := fun h => absurd h (by decide)

/-- IllegalCommandEndsWithIllegal: each way to be ILLEGAL at its boundary, and the boundary commands. -/
theorem witness_illegal :
    (0x00000100#32).extractLsb' 8 24 ≠ 0#24 ∧ (0x80000001#32).extractLsb' 8 24 ≠ 0#24 ∧
    (0x00000000#32).extractLsb' 0 8 = 0#8 ∧ 0x0A ≤ ((0x0000000A#32).extractLsb' 0 8).toNat ∧
    0x0A ≤ ((0x000000FF#32).extractLsb' 0 8).toNat ∧
    ¬ ((0x00000001#32).extractLsb' 8 24 ≠ 0#24 ∨ (0x00000001#32).extractLsb' 0 8 = 0#8 ∨
      0x0A ≤ ((0x00000001#32).extractLsb' 0 8).toNat) ∧
    ¬ ((0x00000009#32).extractLsb' 8 24 ≠ 0#24 ∨ (0x00000009#32).extractLsb' 0 8 = 0#8 ∨
      0x0A ≤ ((0x00000009#32).extractLsb' 0 8).toNat) := by decide

/-- StepRunsAcceptedCommand: an accepted command with the engine named next, with no turn named, and table words. -/
theorem witness_accepted :
    (∃ s : State, s.Accepted .setPixel ∧ ∃ r, s.turns = .engine :: r) ∧
    (∃ s : State, s.Accepted .powerOff ∧ s.turns = []) ∧
    decodeTableWord 32 1 = some .init ∧ decodeTableWord 32 9 = some .powerOff :=
  ⟨⟨{ State.reset.accept 4#32 with turns := [.engine] }, ⟨rfl, rfl, rfl, rfl⟩, [], rfl⟩,
   ⟨State.reset.accept 9#32, ⟨rfl, rfl, rfl, rfl⟩, rfl⟩, rfl, rfl⟩

/-- IllegalCommandEndsWithIllegal, CommandWriteIsHeldThenAccepted, StatusWriteClearsErrOnly,
ArgRegistersReadAndWriteAtAnyTime, GeomReadsLatchedGeometry, HoldsWhileBusy, CmdRegisterSubmitsAndReadsZero and
HostWaitPollsStatus: each access presented, at the port widths of this hardware, with BUSY = 1 and with BUSY = 0, and a
held access with BUSY = 0. -/
theorem witness_hostState (busy : Bool) (op : HostOp) :
    (hostState busy op).hostProg = op :: [] ∧ (hostState busy op).turns = .host :: [] ∧
    (hostState busy op).busy = busy ∧ (hostState busy op).ready = true ∧ (hostState busy op).cfg.StandardPort ∧
    ({ hostState busy op with held := true } : State).held = true := ⟨rfl, rfl, rfl, rfl, ⟨rfl, rfl⟩, rfl⟩

/-- StatusWriteClearsErrOnly: written values with bit 2 set and with every other bit set. -/
theorem witness_status_write :
    (0x00000004#32).getLsbD 2 = true ∧ (0xFFFFFFFF#32).getLsbD 2 = true ∧ (0xFFFFFFFB#32).getLsbD 2 = false := by
  decide

/-- StatusReadsAndChangesAsTheRuleSays: a read of STATUS; a step that keeps BUSY = 1; the two steps that clear ERR. -/
theorem witness_status :
    (∃ s : State, ∃ ops r, s.hostProg = .rd (wordAt 0x004) :: ops ∧ s.turns = .host :: r) ∧
    (∃ s t : State, step s = .next t ∧ s.busy = true ∧ t.busy = true) ∧
    (∃ s t : State, step s = .next t ∧ s.err = true ∧ t.err = false ∧ s.turns = [.reset]) ∧
    (∃ s t : State, step s = .next t ∧ s.err = true ∧ t.err = false ∧ s.turns = [.host] ∧ s.cfg.StandardPort) :=
  ⟨⟨hostState true (.rd (wordAt 0x004)), [], [], rfl, rfl⟩,
   ⟨{ flushing with turns := [.answer .ack] }, _, rfl, rfl, rfl⟩,
   ⟨{ State.reset with err := true, errcode := 2#4, turns := [.reset] }, _, rfl, rfl, rfl, rfl⟩,
   ⟨{ hostState false (.wr (wordAt 0x004) 4#32) with err := true, errcode := 2#4 }, _, rfl, rfl, rfl, rfl, rfl, rfl⟩⟩

/-- UnmappedAndReadOnlyOffsets and HoldsWhileBusy: the boundary offsets of each clause. -/
theorem witness_offsets :
    (0x018 ≤ 0x3FC ∧ 0x3FC ≤ 0x7FC ∧ 0x018 % 4 = 0 ∧ 0x3FC % 4 = 0 ∧ 0x014 % 4 = 0 ∧ 0x7FC % 4 = 0) ∧
    hostReg (wordAt 0x018) = .unmapped ∧ hostReg (wordAt 0x3FC) = .unmapped ∧ hostReg (wordAt 0x014) = .geom ∧
    hostReg (wordAt 0x400) = .fbwin 0 ∧ hostReg (wordAt 0x7FC) = .fbwin 255 := by decide

/-- FramebufferWindowReads: the first and the last window word. -/
theorem witness_window :
    (hostState false (.rd (wordAt (0x400 + 4 * 0)))).hostProg = .rd (wordAt (0x400 + 4 * 0)) :: [] ∧
    (hostState true (.rd (wordAt (0x400 + 4 * 255)))).hostProg = .rd (wordAt (0x400 + 4 * 255)) :: [] ∧
    255 < 256 := ⟨rfl, rfl, by decide⟩

/-- OperandValues and WidthsAreConfiguration: the coordinate width of this hardware, a narrower one, and the word index of
ARG0. -/
theorem witness_widths :
    State.reset.cfg.coordBits = 16 ∧ 1 ≤ 8 ∧ 8 ≤ 16 ∧ coordinate { Config.standard with coordBits := 8 } 0x00FF#16 = -1 ∧
    portReg State.reset.cfg 2#9 = .arg0 := by decide

/-- UnnamedOperandBitsAreIgnored: argument words that differ from the latched ones only in bits R49 does not name. -/
theorem witness_unnamed_bits :
    (0xFFFFFF7F#32).toNat % 256 = (0x0000007F#32).toNat % 256 ∧ (0xFFFFFFFF#32).toNat % 2 = (1#32).toNat % 2 ∧
    ((0x00000100#32).toNat % 256 = 0 ↔ (0#32).toNat % 256 = 0) ∧
    ((0x00000180#32).toNat % 256 = 0 ↔ (1#32).toNat % 256 = 0) := by decide

/-- AssembledOperandsReachTheCommand: the extreme operands of each clause on an idle block. -/
theorem witness_assembled (p : Pseudo) :
    (∃ s : State, s.cfg.StandardPort ∧ s.cfg.coordBits = 16 ∧ s.busy = false ∧ s.turns = [] ∧
      s.hostProg = p.expand) ∧
    (Pseudo.setPixel (-32768) 32767 4294967295).wf = true ∧ (Pseudo.init 65535 65535 0).wf = true ∧
    (Pseudo.drawLine (-32768) 32767 32767 (-32768) 0).wf = true ∧ (Pseudo.contrast 4294967295).wf = true ∧
    (Pseudo.invert 0).wf = true :=
  ⟨⟨{ State.reset with hostProg := p.expand }, ⟨rfl, rfl⟩, rfl, rfl, rfl, rfl⟩, by decide⟩

/-- ErrorPriority: an accepted command for each clause. -/
theorem witness_error_priority :
    (∃ s : State, s.busy = true ∧ s.todo = none ∧ s.pending = none ∧
      decodeLatched s.lcmdHigh0 s.lcmd = .error .reservedBits) ∧
    (∃ s : State, s.Accepted .clear ∧ s.ready = false) ∧ (∃ s : State, s.Accepted .init ∧ s.ready = true) ∧
    (∃ s : State, s.Accepted .init ∧ s.ready = false ∧
      geometryLegal s.cfg s.width.toNat s.height.toNat = false) ∧
    (∃ s : State, s.Accepted .init ∧ s.ready = false ∧
      geometryLegal s.cfg s.width.toNat s.height.toNat = true) ∧
    (∃ s : State, s.Accepted .flush ∧ s.ready = true) :=
  ⟨⟨State.reset.accept 0x104#32, rfl, rfl, rfl, rfl⟩, ⟨State.reset.accept 2#32, ⟨rfl, rfl, rfl, rfl⟩, rfl⟩,
   ⟨(readyState 8 8).accept 1#32, ⟨rfl, rfl, rfl, rfl⟩, rfl⟩,
   ⟨initState 0x003C0080#32 0#32 [], ⟨rfl, rfl, rfl, rfl⟩, rfl, by decide⟩,
   ⟨initState 0x00400080#32 0#32 [], ⟨rfl, rfl, rfl, rfl⟩, rfl, by decide⟩,
   ⟨(readyState 8 8).accept 3#32, ⟨rfl, rfl, rfl, rfl⟩, rfl⟩⟩

/-- TransportAnswerEndsOrContinues and UnansweredTransactionHangs: an outstanding transaction with each next turn. -/
theorem witness_outstanding (q : Turn) :
    ({ flushing with turns := [q] } : State).busy = true ∧
    ({ flushing with turns := [q] } : State).pending = some ⟨0x3C#7, cmd 0x21#8⟩ ∧
    ({ flushing with turns := [q] } : State).turns = q :: [] := ⟨rfl, rfl, rfl⟩

/-- UnansweredTransactionHangs: a held access beside the outstanding transaction. -/
theorem witness_hang_held :
    ∃ s : State, s.busy = true ∧ s.pending ≠ none ∧ (∀ a r, s.turns ≠ .answer a :: r) ∧
      (∀ r, s.turns ≠ .reset :: r) ∧ s.held = true ∧
      ∃ op ops, s.hostProg = op :: ops ∧ op.holdable s.cfg = true :=
  ⟨{ flushing with held := true, hostProg := [.rd (wordAt 0x014)] }, rfl, nofun, nofun, nofun, rfl, _, _, rfl, rfl⟩

/-- InitSemantics: an INIT of which the first, the last byte of InitSeq, the first of FlushBody or the last transaction
has no answer yet. -/
theorem witness_init_waits :
    (∃ s : State, s.ready = false ∧ geometryLegal s.cfg s.width.toNat s.height.toNat = true ∧
      s.turns = acks 31 ++ [.host] ∧ noAnswerNext [.host]) ∧
    (initPayloads Config.standard 1 8 false)[0]? = some (cmd 0xAE#8) ∧
    (initPayloads Config.standard 1 8 false)[24]? = some (cmd 0xAF#8) ∧
    (initPayloads Config.standard 1 8 false)[25]? = some (cmd 0x21#8) ∧
    (initPayloads Config.standard 1 8 false)[31]? = some [0x40#8, 0x00#8] :=
  ⟨⟨initState 0x00080001#32 0#32 (acks 31 ++ [.host]), rfl, by decide, rfl, nofun⟩, by decide⟩

/-- InitSemantics, FailedInitLeavesBlockUninitialised and TransactionAndByteCounts: the smallest and the largest
geometry, the refused one, all ACK, and the first and the last transaction that fails. -/
theorem witness_init :
    (∃ s : State, s.ready = false ∧ 1 ≤ s.width.toNat ∧ s.width.toNat ≤ s.cfg.maxW ∧ 8 ≤ s.height.toNat ∧
      s.height.toNat ≤ s.cfg.maxH ∧ s.height.toNat % 8 = 0 ∧ s.turns = acks 32 ++ []) ∧
    (∃ s : State, s.ready = false ∧ geometryLegal s.cfg s.width.toNat s.height.toNat = true ∧
      (initPayloads s.cfg s.width.toNat s.height.toNat s.extIn)[0]? = some (cmd 0xAE#8) ∧
      s.turns = acks 0 ++ .answer .fail :: []) ∧
    (∃ s : State, s.ready = false ∧ geometryLegal s.cfg s.width.toNat s.height.toNat = true ∧
      (initPayloads s.cfg s.width.toNat s.height.toNat s.extIn)[31]? = some [0x40#8, 0x00#8] ∧
      s.turns = acks 31 ++ .answer .fail :: []) ∧
    (∃ s : State, s.ready = false ∧ geometryLegal s.cfg s.width.toNat s.height.toNat = false) ∧
    (∃ s : State, s.ready = true) :=
  ⟨⟨initState 0x00080001#32 0#32 (acks 32), by decide⟩,
   ⟨initState 0x00400080#32 0#32 (acks 0 ++ [.answer .fail]), rfl, by decide, by decide, rfl⟩,
   ⟨initState 0x00080001#32 0#32 (acks 31 ++ [.answer .fail]), rfl, by decide, by decide, rfl⟩,
   ⟨initState 0x003C0080#32 0#32 [], rfl, by decide⟩, ⟨readyState 8 8, rfl⟩⟩

/-- FlushSemantics: all ACK, the first and the last transaction failing, and the last one unanswered. -/
theorem witness_flush :
    (∃ s : State, s.ready = true ∧ s.turns = acks 7 ++ []) ∧
    (∃ s : State, s.ready = true ∧
      (cmdPayloads s.cfg (winSeq s.cfg.ctrl s.w.toNat s.h.toNat) ++
        [s.cfg.dataMarker :: (List.range (s.h.toNat / 8 * s.w.toNat)).map s.fbRead])[0]? = some (cmd 0x21#8) ∧
      s.turns = acks 0 ++ .answer .fail :: []) ∧
    (∃ s : State, s.ready = true ∧
      (cmdPayloads s.cfg (winSeq s.cfg.ctrl s.w.toNat s.h.toNat) ++
        [s.cfg.dataMarker :: (List.range (s.h.toNat / 8 * s.w.toNat)).map s.fbRead])[6]? =
          some [0x40#8, 0x00#8] ∧
      s.turns = acks 6 ++ [.host] ∧ noAnswerNext [.host]) :=
  ⟨⟨{ readyState 8 8 with turns := acks 7 }, rfl, rfl⟩,
   ⟨{ readyState 8 8 with turns := [.answer .fail] }, rfl, by decide, rfl⟩,
   ⟨{ readyState 1 8 with turns := acks 6 ++ [.host] }, rfl, by decide, rfl, nofun⟩⟩

/-- FbSetBitChangesOneBitOrNothing, SetPixelSemantics, DrawLineSetsExactlyThePath and DrawingDependsOnThePointSetOnly:
the corner pixels in range, and the points just outside. -/
theorem witness_range :
    (readyState 128 8).inRange ⟨0, 0⟩ = true ∧ (readyState 128 8).inRange ⟨127, 7⟩ = true ∧
    (readyState 128 8).inRange ⟨128, 0⟩ = false ∧ (readyState 128 8).inRange ⟨0, 8⟩ = false ∧
    (readyState 128 8).inRange ⟨-1, 0⟩ = false ∧ (readyState 128 8).inRange ⟨0, -1⟩ = false ∧
    (acceptedWith (readyState 128 8) 0x0007007F#32 0#32 1#32).point0 = ⟨127, 7⟩ ∧
    (acceptedWith (readyState 128 8) 0xFFFFFFFF#32 0#32 1#32).point0 = ⟨-1, -1⟩ := by decide

/-- DrawLineSetsExactlyThePath: a path with an in-range and an out-of-range point, and a bit it does not touch. -/
theorem witness_path :
    (∃ p ∈ linePoints .reference ⟨6, 0⟩ ⟨8, 0⟩, (readyState 8 8).inRange p = true) ∧
    (∃ p ∈ linePoints .reference ⟨6, 0⟩ ⟨8, 0⟩, (readyState 8 8).inRange p = false) ∧
    ¬ ∃ p ∈ linePoints .reference ⟨6, 0⟩ ⟨8, 0⟩, p.y.toNat / 8 * 8 + p.x.toNat = 0 := by decide

/-- LineAlgorithmConforms: two consecutive points; ReferenceLinePointCount needs none. -/
theorem witness_consecutive :
    (linePoints .reference ⟨0, 0⟩ ⟨1, 0⟩)[0]? = some ⟨0, 0⟩ ∧
    (linePoints .reference ⟨0, 0⟩ ⟨1, 0⟩)[0 + 1]? = some ⟨1, 0⟩ := by decide

/-- InnerWhileRunsAtMostOnce: the diagonal, where the error term is largest. -/
theorem witness_inner_while : 1 ≤ 1 ∧ (0 : Int) ≤ 5 ∧ (5 : Int) ≤ 5 ∧ (0 : Int) < 5 := by decide

/-- ContrastSemantics, InvertSemantics, PowerCommandSemantics, PassThroughsChangeNoBlockState and
NothingIsSeenBeforeInit: READY with each order of answers, and not READY. -/
theorem witness_passthrough :
    (∃ s : State, s.ready = false) ∧ (∃ s : State, s.ready = true ∧ s.turns = .answer .ack :: .answer .ack :: []) ∧
    (∃ s : State, s.ready = true ∧ s.turns = .answer .ack :: .answer .fail :: []) ∧
    (∃ s : State, s.ready = true ∧ s.turns = .answer .fail :: []) ∧
    (∃ s : State, s.ready = true ∧ noAnswerNext s.turns) ∧
    (∃ s : State, s.ready = true ∧ s.turns = .answer .ack :: [.host] ∧ noAnswerNext [.host]) ∧
    (∃ s t : State, exec .contrast s = .next t) :=
  ⟨⟨State.reset, rfl⟩, ⟨{ readyState 8 8 with turns := [.answer .ack, .answer .ack] }, rfl, rfl⟩,
   ⟨{ readyState 8 8 with turns := [.answer .ack, .answer .fail] }, rfl, rfl⟩,
   ⟨{ readyState 8 8 with turns := [.answer .fail] }, rfl, rfl⟩, ⟨readyState 8 8, rfl, nofun⟩,
   ⟨{ readyState 8 8 with turns := [.answer .ack, .host] }, rfl, rfl, nofun⟩, ⟨readyState 8 8, _, rfl⟩⟩

/-- InitSequenceBytes, FlushWindowBytes, ReceiverGetsTheFramebufferOneToOne and PixelLayoutIsOneToOne: the smallest, the
shifted and the largest geometry, and their last pixels. -/
theorem witness_geometry :
    (1 ≤ 1 ∧ 1 ≤ 128 ∧ 8 ≤ 8 ∧ 8 ≤ 64 ∧ 8 % 8 = 0 ∧ 0 < 1 ∧ 7 < 8) ∧
    (1 ≤ 64 ∧ 64 ≤ 128 ∧ 8 ≤ 64 ∧ 64 ≤ 64 ∧ 64 % 8 = 0 ∧ 63 < 64) ∧
    (1 ≤ 128 ∧ 128 ≤ 128 ∧ 127 < 128 ∧ pixIndex 128 127 63 = 1023 ∧ 1023 < 64 / 8 * 128) := by decide

/-- TransactionAndByteCounts: each command that ends, with the answers it takes. -/
theorem witness_counts :
    (∃ s t : State, s.busy = true ∧ s.turns = acks 32 ++ [] ∧ exec .init s = .next t ∧ t.busy = false ∧
      t.lastfail = false ∧ t.turns = []) ∧
    (∃ s t : State, s.busy = true ∧ s.turns = acks 7 ++ [] ∧ exec .flush s = .next t ∧ t.busy = false ∧
      t.lastfail = false ∧ t.turns = []) ∧
    (∃ s t : State, s.busy = true ∧ s.turns = acks 2 ++ [] ∧ exec .contrast s = .next t ∧ t.busy = false ∧
      t.lastfail = false ∧ t.turns = []) ∧
    (∃ s t : State, s.busy = true ∧ s.turns = acks 1 ++ [] ∧ exec .powerOn s = .next t ∧ t.busy = false ∧
      t.lastfail = false ∧ t.turns = []) ∧
    (∃ s t : State, s.busy = true ∧ s.turns = acks 0 ++ [] ∧ exec .clear s = .next t ∧ t.busy = false ∧
      t.lastfail = false ∧ t.turns = []) :=
  ⟨⟨initState 0x00080001#32 0#32 (acks 32), _, rfl, rfl, rfl, by decide, by decide, by decide⟩,
   ⟨{ acceptedWith (readyState 8 8) 0#32 0#32 0#32 with turns := acks 7 }, _, rfl, rfl, rfl, by decide, by decide,
     by decide⟩,
   ⟨{ acceptedWith (readyState 8 8) 0#32 0#32 0#32 with turns := acks 2 }, _, rfl, rfl, rfl, by decide, by decide,
     by decide⟩,
   ⟨{ acceptedWith (readyState 8 8) 0#32 0#32 0#32 with turns := acks 1 }, _, rfl, rfl, rfl, by decide, by decide,
     by decide⟩,
   ⟨acceptedWith (readyState 8 8) 0#32 0#32 0#32, _, rfl, rfl, rfl, by decide, by decide, by decide⟩⟩

/-- ResetLeavesTheResetValues and ResetEndsTheCommandAtOnce: a reset with a transaction outstanding and with none, with
no access held, a write held and a read held; and a late answer. -/
theorem witness_reset :
    (∃ s : State, ∃ x, s.turns = .reset :: [] ∧ s.pending = some x ∧ s.held = false) ∧
    (∃ s : State, s.turns = .reset :: [] ∧ s.pending = none ∧ s.held = true ∧
      s.hostProg = .wr (wordAt 0x000) 4#32 :: []) ∧
    (∃ s : State, s.turns = .reset :: [] ∧ s.held = true ∧ s.hostProg = .rd (wordAt 0x014) :: []) ∧
    (∃ s : State, s.turns = .lateAnswer .ack :: []) :=
  ⟨⟨{ flushing with turns := [.reset] }, _, rfl, rfl, rfl⟩,
   ⟨{ hostState true (.wr (wordAt 0x000) 4#32) with held := true, turns := [.reset] }, rfl, rfl, rfl, rfl⟩,
   ⟨{ flushing with held := true, hostProg := [.rd (wordAt 0x014)], turns := [.reset] }, rfl, rfl, rfl⟩,
   ⟨{ State.reset with turns := [.lateAnswer .ack] }, rfl⟩⟩

/-- InvariantKeptByEveryStep, BytesAboveTheFrameAreNeverWritten, BusHistoryOnlyGrows, ConfigurationNeverChanges and
GeometryIsFixedUntilReset: a state with the invariant, READY, a transaction outstanding, and a step of it that is no reset
and not the engine's. -/
theorem witness_step :
    ∃ s t : State, s.Inv ∧ s.ready = true ∧ step s = .next t ∧ (∀ r, s.turns ≠ .reset :: r) ∧
      s.pending ≠ none ∧ ∃ q r, s.turns = q :: r ∧ q ≠ .engine ∧ q ≠ .micro :=
  ⟨{ flushing with turns := [.host] }, _,
   witness_flushing_inv.withTurns _,
   rfl, rfl, nofun, nofun, _, _, rfl, nofun, nofun⟩

/-- OnlyFourCommandsWriteTheFramebuffer: a command that changes the framebuffer. -/
theorem witness_framebuffer_changes :
    ∃ s t : State, exec .setPixel s = .next t ∧ t.fb ≠ s.fb :=
  ⟨acceptedWith (readyState 1 8) 0#32 0#32 1#32, _, rfl, by decide⟩

/-- A CLEAR that has been begun, on a framebuffer with a pixel set. -/
def clearing : State :=
  { readyState 1 8 with fb := [(0, 0x80#8)], busy := true, lcmd := 0x02#8, todo := some [.zeroFill] }

/-- It meets the invariant. -/
theorem witness_clearing_inv : clearing.Inv where
  canonical := by decide
  inside := by decide
  geometry := fun _ => ⟨by decide, by unfold State.filled; decide⟩
  notYet := by intro as h; cases h; simp
  errcode := by decide
  codeKnown := by decide
  idle := nofun
  running := by decide
  progress := by intro as h; cases h; exact ⟨.clear, rfl, fun _ _ _ => rfl⟩
  heldAccess := nofun

/-- OnlyFourCommandsWriteTheFramebuffer: a state with the invariant and a step of it, by the engine or one action of it,
that changes the framebuffer. -/
theorem witness_framebuffer_step (q : Turn) (hq : q = .engine ∨ q = .micro) :
    ∃ s t : State, s.Inv ∧ step s = .next t ∧ (∀ r, s.turns ≠ .reset :: r) ∧ t.fb ≠ s.fb := by
  refine ⟨{ clearing with turns := [q] }, ?_⟩
  rcases hq with rfl | rfl <;> exact ⟨_, witness_clearing_inv.withTurns _, rfl, nofun, by decide⟩

/-- WaitingCommandGoesOn: a FLUSH that runs and a CONTRAST that is about to begin, each with two transactions to go. -/
theorem witness_waiting :
    (∃ s : State, ∃ as, s.busy = true ∧ s.pending = none ∧ s.todo = some as ∧ 1 < txCount as) ∧
    (∃ s : State, ∃ as, s.busy = true ∧ s.pending = none ∧ s.Accepted .contrast ∧
      (startCommand .contrast s).todo = some as ∧ 1 < txCount as) :=
  ⟨⟨{ flushing with pending := none, todo := some ((flushBody Ctrl.standard 8 8).drop 5) }, _, rfl, rfl, rfl, by decide⟩,
   ⟨(readyState 8 8).accept 6#32, _, rfl, rfl, ⟨rfl, rfl, rfl, rfl⟩, rfl, by decide⟩⟩

/-- CmdRegisterSubmitsAndReadsZero: a written value with a reserved bit set, and one whose opcode is a command's. -/
theorem witness_cmd_write :
    (0x00000104#32).extractLsb' 8 24 ≠ 0#24 ∧ (0x00000009#32).extractLsb' 8 24 = 0#24 ∧
    (0x00000009#32).extractLsb' 0 8 = Instr.powerOff.opcode := by decide

/-- OneActionAtATimeEqualsOneMove: a FLUSH that is about to issue its last two transactions. -/
theorem witness_one_action :
    ∃ s : State, ∃ as, s.busy = true ∧ s.todo = some as ∧ s.pending = none ∧ txCount as = 2 :=
  ⟨{ flushing with pending := none, todo := some ((flushBody Ctrl.standard 8 8).drop 5) }, _, rfl, rfl, rfl, rfl⟩

/-- EveryCommandEndsOnceAnswered: 32 answers. -/
theorem witness_answers : 32 ≤ (List.replicate 32 Answer.fail).length := by decide

end Sys2Proof.Tests
end

section
/-!
PROOFS. The parameters of 00_scope.md R5: what the three width parameters do at any value (log 22), and the values of this
hardware.
-/

namespace Sys2Proof.Machine

/-- Where its field has room for COORD_BITS, a coordinate is read from exactly that many low bits. -/
theorem coordinate_eq_toInt_setWidth {c : Config} (h : c.coordBits ≤ 16) (field : BitVec 16) :
    coordinate c field = (field.setWidth c.coordBits).toInt := by
  rw [coordinate, Nat.min_eq_left h]

/-- A coordinate differs from the unsigned field by a multiple of `2 ^ COORD_BITS`. -/
theorem two_pow_coordBits_dvd_sub_coordinate {c : Config} (h : c.coordBits ≤ 16) (field : BitVec 16) :
    (2 ^ c.coordBits : Int) ∣ field.toNat - coordinate c field := by
  rw [coordinate_eq_toInt_setWidth h, BitVec.toInt_setWidth]
  exact_mod_cast Int.dvd_self_sub_bmod (x := field.toNat) (m := 2 ^ c.coordBits)

/-- The data lines carry a word modulo `2 ^ (host data width)`; a width above 32 carries all of it. -/
theorem portData_toNat (c : Config) (v : Word) : (portData c v).toNat = v.toNat % 2 ^ c.hostDataBits := by
  have hfits : v.toNat % 2 ^ c.hostDataBits < 2 ^ 32 := (Nat.mod_le _ _).trans_lt v.isLt
  rw [portData, BitVec.toNat_ofNat, Nat.mod_eq_of_lt hfits]

theorem portData_toNat_lt (c : Config) (v : Word) : (portData c v).toNat < 2 ^ c.hostDataBits := by
  rw [portData_toNat]
  exact Nat.mod_lt _ (Nat.two_pow_pos _)

theorem wordIndex_offset_toNat (k : WordIndex) : k.offset.toNat = 4 * k.toNat := by
  rw [WordIndex.offset, BitVec.toNat_append, BitVec.toNat_ofNat, Nat.zero_mod, Nat.or_zero, Nat.shiftLeft_eq,
    Nat.mul_comm]

/-- The address lines name the word of the byte offset modulo `2 ^ (host address width)`. -/
theorem portIndex_toNat (c : Config) (k : WordIndex) :
    (portIndex c k).toNat = 4 * k.toNat % 2 ^ c.hostAddrBits / 4 := by
  have hk : k.toNat < 512 := k.isLt
  have hle : 4 * k.toNat % 2 ^ c.hostAddrBits ≤ 4 * k.toNat := Nat.mod_le _ _
  have hfits : 4 * k.toNat % 2 ^ c.hostAddrBits / 4 < 2 ^ 9 := by omega
  rw [portIndex, wordIndex_offset_toNat, BitVec.toNat_ofNat, Nat.mod_eq_of_lt hfits]

/-- A host write that reaches ARG0 stores what the data lines carry. -/
theorem hostStore_arg0 {s : State} {k : WordIndex} (hreg : portReg s.cfg k = .arg0) (v : Word) :
    (s.hostStore k v).arg0 = portData s.cfg v := by
  rw [State.hostStore, hreg, State.regStore]

/-- Settles O57, from the law of each width: the coordinate's, the data lines' and the address lines'. -/
theorem widthsAreConfiguration : Obligations.WidthsAreConfiguration := by
  intro c s k v
  refine ⟨fun field _ hle => ⟨?_, ?_, two_pow_coordBits_dvd_sub_coordinate hle field⟩, ?_, fun hreg => ?_,
    portIndex_toNat c k⟩
  · rw [coordinate_eq_toInt_setWidth hle]
    exact BitVec.le_toInt _
  · rw [coordinate_eq_toInt_setWidth hle]
    exact BitVec.toInt_lt
  · exact portData_toNat_lt s.cfg _
  · rw [hostStore_arg0 hreg, portData_toNat]

/-- Settles O56: each value is the one `Config.standard` is defined with, and FB_CAP is computed from MAX_W and MAX_H. -/
theorem parametersOfThisHardware : Obligations.ParametersOfThisHardware :=
  have hport : Config.standard.StandardPort := ⟨rfl, rfl⟩
  ⟨rfl, rfl, rfl, rfl, rfl, rfl, rfl, rfl, rfl, rfl, rfl, rfl, hport⟩

end Sys2Proof.Machine
end

section
/-!
PROOFS. Everything a step that answers a next state can do, said once (`step_next_cases`), and the engine's moves as
sequences of elementary acts (`EngineActs`): what every act keeps, every move of the engine keeps.
-/

namespace Sys2Proof.Machine

/-! ## The agents' moves -/

/-- A move of one agent of 10_state.md R9, the reset input aside. -/
inductive AgentMove (s t : State) : Prop
  | host (h : t = hostTurn s)
  | engine (h : engineTurn s = .next t)
  | micro (h : t = microTurn s)
  | answer (a : Answer) (h : t = answerTurn a s)
  | lateAnswer (h : t = s)

/-- A step is the reset or the move of an agent, with its turn taken. -/
theorem step_next_cases {s t : State} (h : step s = .next t) :
    (∃ r, s.turns = .reset :: r ∧ t = State.resetInput { s with turns := r }) ∨
    ∃ r, AgentMove { s with turns := r } t := by
  have unnamed (ht : s.turns = []) : ({ s with turns := [] } : State) = s := by rw [← ht]
  obtain ⟨q, r, hturns, hq⟩ | ⟨hturns, -, -, hi⟩ | ⟨hturns, -, hi⟩ := step_cases s
  · rw [hq] at h
    cases q with
    | host => cases h; exact .inr ⟨r, .host rfl⟩
    | engine => exact .inr ⟨r, .engine h⟩
    | micro => cases h; exact .inr ⟨r, .micro rfl⟩
    | answer a => cases h; exact .inr ⟨r, .answer a rfl⟩
    | lateAnswer a => cases h; exact .inr ⟨r, .lateAnswer rfl⟩
    | reset => cases h; exact .inl ⟨r, hturns, rfl⟩
  · refine .inr ⟨[], .engine ?_⟩
    rw [unnamed hturns, ← hi, h]
  · rw [hi] at h
    cases h
    refine .inr ⟨[], .host ?_⟩
    rw [unnamed hturns]

/-! ## The engine's elementary acts -/

/-- The elementary acts of a command that runs. -/
inductive EngineAct : State → State → Prop
  | takeAnswer (s : State) (r : List Turn) : EngineAct s { s with turns := r }
  | plan (s : State) (as : List Action) : EngineAct s (s.plan as)
  | zeroFill (s : State) : EngineAct s s.zeroFill
  | setBit (s : State) (p : Point) (v : Bool) : EngineAct s (s.fbSetBit p v)
  | issue (s : State) (payload : List Byte) (rest : List Action) : EngineAct s (s.issue payload rest)
  | record (s : State) (res : TxResult) : EngineAct s (s.record res)
  | raise (s : State) (c : ErrCode) : EngineAct s (s.raise c)
  | complete (s : State) : EngineAct s s.complete
  | completeInit (s : State) : EngineAct s s.completeInit

/-- Any number of elementary acts. -/
abbrev EngineActs : State → State → Prop := Relation.ReflTransGen EngineAct

/-- The transport's answer is recorded, and a FAIL raises TRANSPORT. -/
theorem answered_acts (s : State) (a : Answer) : EngineActs s (s.answered a) := by
  cases a with
  | ack => exact .single (.record s .ack)
  | fail => exact (Relation.ReflTransGen.single (.record s .fail)).tail (.raise _ .transport)

theorem afterAnswer_acts (s : State) (payload : List Byte) (rest : List Action) (a : Answer) (r : List Turn) :
    EngineActs s (afterAnswer s payload rest a r) :=
  .head (.takeAnswer s r) (.head (.issue _ payload rest) (answered_acts _ a))

theorem transmit_acts (s : State) (payload : List Byte) (rest : List Action) {k : State → State}
    (hk : ∀ u, EngineActs u (k u)) : EngineActs s (transmit s payload rest k) := by
  obtain ⟨r, -, h⟩ | ⟨r, -, h⟩ | ⟨-, h⟩ := transmit_cases s payload rest k
  · rw [h]; exact (afterAnswer_acts s payload rest .ack r).trans (hk _)
  · rw [h]; exact afterAnswer_acts s payload rest .fail r
  · rw [h]; exact .single (.issue s payload rest)

theorem runActions_acts (as : List Action) (s : State) : EngineActs s (runActions as s) := by
  induction as generalizing s with
  | nil => exact .single (.complete s)
  | cons a as ih =>
    cases a with
    | zeroFill => exact .head (.zeroFill s) (ih _)
    | setBit p v => exact .head (.setBit s p v) (ih _)
    | sendCmd b => exact transmit_acts s _ as ih
    | sendData => exact transmit_acts s _ as ih
    | ready => exact .single (.completeInit s)

theorem microAction_acts (as : List Action) (s : State) : EngineActs s (microAction as s) := by
  cases as with
  | nil => exact .single (.complete s)
  | cons a rest =>
    cases a with
    | zeroFill => exact .head (.zeroFill s) (.single (.plan _ rest))
    | setBit p v => exact .head (.setBit s p v) (.single (.plan _ rest))
    | sendCmd b => exact .single (.issue s _ rest)
    | sendData => exact .single (.issue s _ rest)
    | ready => exact .single (.completeInit s)

/-! ## The engine's moves -/

/-- Everything a move of the engine can do: nothing, an error before the command begins, acts of a READY block or of a
command that has begun, and INIT's latches of W, H, EXT with the zero fill, followed by acts. -/
inductive EngineMove (s t : State) : Prop
  | nothing (h : t = s)
  | refuse (c : ErrCode) (h : t = s.raise c)
  | acts (hg : s.ready = true ∨ s.todo ≠ none) (h : EngineActs s t)
  | initBegins (hr : s.ready = false) (hg : geometryLegal s.cfg s.width.toNat s.height.toNat = true)
      (h : EngineActs (initBegun s) t)

/-- The start of a command, and whatever the engine does next: it leaves an error as it is, and does acts of a plan. -/
theorem startCommand_then_move {k : State → State} (hraise : ∀ u c, k (State.raise u c) = u.raise c)
    (hplan : ∀ u as, EngineActs u (k (State.plan u as))) (i : Instr) (s : State) :
    EngineMove s (k (startCommand i s)) := by
  obtain ⟨c, h⟩ | ⟨-, hr, hg, h⟩ | ⟨-, hr, h⟩ := startCommand_cases i s
  · exact .refuse c (by rw [h, hraise])
  · exact .initBegins hr hg (by rw [h]; exact hplan _ _)
  · exact .acts (.inl hr) (by rw [h]; exact hplan _ _)

theorem startCommand_move (i : Instr) (s : State) : EngineMove s (startCommand i s) :=
  startCommand_then_move (k := id) (fun _ _ => rfl) (fun u as => .single (.plan u as)) i s

theorem exec_move {i : Instr} {s t : State} (h : exec i s = .next t) : EngineMove s t := by
  rw [exec_eq] at h
  cases h
  refine startCommand_then_move engineRun_raise (fun u as => ?_) i s
  rw [engineRun_plan]
  exact runActions_acts as u

theorem engineTurn_move {s t : State} (h : engineTurn s = .next t) : EngineMove s t := by
  obtain ⟨-, he⟩ | ⟨as, -, -, htodo, he⟩ | ⟨i, -, he⟩ | ⟨e, -, -, -, -, he⟩ := engineTurn_cases s
  · exact .nothing (Host.Outcome.next.inj (h.symm.trans he))
  · rw [he] at h
    cases h
    exact .acts (.inr (by simp [htodo])) (runActions_acts as s)
  · exact exec_move (he.symm.trans h)
  · exact .refuse .illegal (Host.Outcome.next.inj (h.symm.trans he))

theorem microTurn_move (s : State) : EngineMove s (microTurn s) := by
  obtain ⟨-, he⟩ | ⟨as, -, -, htodo, he⟩ | ⟨i, -, he⟩ | ⟨e, -, -, -, -, he⟩ := microTurn_cases s
  · exact .nothing he
  · exact .acts (.inr (by simp [htodo])) (by rw [he]; exact microAction_acts as s)
  · rw [he]; exact startCommand_move i s
  · exact .refuse .illegal he

/-- An answer to the outstanding transaction, in acts of the engine. -/
theorem answerTurn_acts (a : Answer) (s : State) : EngineActs s (answerTurn a s) := by
  unfold answerTurn
  split
  · exact answered_acts s a
  · exact .refl

end Sys2Proof.Machine
end

section
/-!
PROOFS. The reset values (10_state.md R24), and the invariant: it holds right after reset and every step keeps it.
-/

namespace Sys2Proof.Machine

/-! ## Reset -/

/-- Before READY the window shows 0 (20_memory.md R29). -/
theorem winWord_of_notReady {s : State} (h : s.ready = false) (k : Nat) : s.winWord k = 0#32 := by
  simp [State.winWord, State.winByte, h]

theorem status_toReset (s : State) : s.toReset.status = 0#32 :=
  calc s.toReset.status = State.reset.status := rfl
    _ = 0#32 := by decide

/-- What the rule names, whatever the fields are that a reset keeps. -/
theorem toReset_atReset (s : State) : s.toReset.AtReset :=
  ⟨rfl, rfl, rfl, rfl, rfl, rfl, rfl, rfl, rfl, rfl, rfl, rfl, rfl, rfl, rfl, rfl, rfl, status_toReset s, rfl,
    winWord_of_notReady rfl⟩

/-- Settles O40: the reset input ends in `State.toReset`, and no field that it keeps is read by what the rule names. -/
theorem resetLeavesTheResetValues : Obligations.ResetLeavesTheResetValues := by
  refine ⟨toReset_atReset State.reset, fun s r hturns => ⟨_, step_turn s .reset r hturns, toReset_atReset _⟩⟩

/-- An idle block that has been reset meets the invariant, with any parameters, history and input. -/
theorem inv_afterReset (c : Config) (epoch : Nat) (bus : List BusRecord) (prog : List HostOp) (v : Word)
    (order : List Turn) :
    State.Inv { State.reset with
      cfg := c, fbEpoch := epoch, bus := bus, hostProg := prog, readData := v, turns := order } where
  canonical := .nil
  inside := nofun
  geometry := nofun
  notYet := nofun
  errcode := ⟨fun _ => rfl, fun _ => rfl⟩
  codeKnown := Nat.zero_le 5
  idle := fun _ => ⟨rfl, rfl⟩
  running := fun h => absurd rfl h
  progress := nofun
  heldAccess := nofun

/-- Settles O43: both states differ from `State.reset` in parameters and inputs at most. -/
theorem invariantHoldsAtReset : Obligations.InvariantHoldsAtReset :=
  ⟨inv_afterReset _ _ _ _ _ _, fun prog order => inv_afterReset _ _ _ prog _ order⟩

theorem resetInput_inv (s : State) : s.resetInput.Inv := inv_afterReset _ _ _ _ _ _

/-! ## The host's turn -/

theorem State.Inv.hostReads {s : State} (h : s.Inv) (v : Word) : (s.hostReads v).Inv :=
  ⟨h.canonical, h.inside, h.geometry, h.notYet, h.errcode, h.codeKnown, h.idle, h.running, h.progress, h.heldAccess⟩

/-- No access is held once the host goes on. -/
theorem State.Inv.hostAdvance {s : State} (h : s.Inv) : s.hostAdvance.Inv :=
  ⟨h.canonical, h.inside, h.geometry, h.notYet, h.errcode, h.codeKnown, h.idle, h.running, h.progress, nofun⟩

/-- Acceptance leaves no action and no transaction: the command has not begun. -/
theorem State.Inv.accept {s : State} (h : s.Inv) (v : Word) : (s.accept v).Inv where
  canonical := h.canonical
  inside := h.inside
  geometry := fun
    | .inl hready => h.geometry (.inl hready)
    | .inr hbegun => absurd rfl hbegun
  notYet := nofun
  errcode := h.errcode
  codeKnown := h.codeKnown
  idle := nofun
  running := fun hp => absurd rfl hp
  progress := nofun
  heldAccess := h.heldAccess

theorem State.Inv.clearErr {s : State} (h : s.Inv) : s.clearErr.Inv :=
  ⟨h.canonical, h.inside, h.geometry, h.notYet, ⟨fun _ => rfl, fun _ => rfl⟩, Nat.zero_le 5, h.idle, h.running,
    h.progress, h.heldAccess⟩

/-- The invariant does not speak of the argument registers. -/
theorem State.Inv.withArgs {s : State} (h : s.Inv) (a0 a1 a2 : Word) : (s.withArgs a0 a1 a2).Inv :=
  ⟨h.canonical, h.inside, h.geometry, h.notYet, h.errcode, h.codeKnown, h.idle, h.running, h.progress, h.heldAccess⟩

theorem State.Inv.regStore {s : State} (h : s.Inv) (g : HostReg) (v : Word) : (s.regStore g v).Inv := by
  cases g with
  | cmd => exact h.accept v
  | status =>
    rw [State.regStore, State.writeStatus]
    split
    · exact h.clearErr
    · exact h
  | arg0 => exact h.withArgs v s.arg1 s.arg2
  | arg1 => exact h.withArgs s.arg0 v s.arg2
  | arg2 => exact h.withArgs s.arg0 s.arg1 v
  | geom => exact h
  | unmapped => exact h
  | fbwin k => exact h

theorem State.Inv.hostPerform {s : State} (h : s.Inv) (op : HostOp) : (s.hostPerform op).Inv := by
  cases op with
  | wr k v => exact (h.regStore _ _).hostAdvance
  | rd k => exact (h.hostReads _).hostAdvance
  | wait =>
    rw [State.hostPerform]
    obtain hw | hw := hostWaits_cases s (s.hostValue 1#9)
    · rw [hw]; exact h.hostReads _
    · rw [hw]; exact (h.hostReads _).hostAdvance

theorem State.Inv.hostTurn {s : State} (h : s.Inv) : (hostTurn s).Inv := by
  obtain ⟨-, ht⟩ | ⟨op, ops, hprog, -, hold, ht⟩ | ⟨op, ops, -, -, ht⟩ := hostTurn_cases s
  · rw [ht]; exact h
  · rw [ht]
    exact ⟨h.canonical, h.inside, h.geometry, h.notYet, h.errcode, h.codeKnown, h.idle, h.running, h.progress,
      fun _ => ⟨op, ops, hprog, hold⟩⟩
  · rw [ht]; exact h.hostPerform op

/-! ## The engine's turns -/

/-- The error leaves nothing of the command; the framebuffer and the held access are as before. -/
theorem State.Inv.raise {s : State} (h : s.Inv) (c : ErrCode) : (s.raise c).Inv :=
  inv_raise s c h.canonical h.inside (fun hready => h.geometry (.inl hready)) h.heldAccess

/-- A command that has begun is running. -/
theorem State.Inv.runInv_of_todo {s : State} (h : s.Inv) {as : List Action} (htodo : s.todo = some as) : RunInv as s :=
  h.toRunInv as (.inr (by simp [htodo])) (h.notYet as htodo) (h.progress as htodo)

/-- A READY block is ready to do the actions of the command it decodes. -/
theorem State.Inv.runInv_of_ready {s : State} (h : s.Inv) {i : Instr} (hready : s.ready = true)
    (hd : decodeLatched s.lcmdHigh0 s.lcmd = .ok i) : RunInv (readyActions i s) s :=
  h.toRunInv _ (.inl hready) (fun hm => absurd hm (ready_not_mem_readyActions i s))
    ⟨i, hd, fbActionsBelong_readyActions i s⟩

/-- A command that is running, with its actions planned. -/
theorem RunInv.plan {as : List Action} {s : State} (h : RunInv as s) (hb : s.busy = true) : (s.plan as).Inv :=
  h.inv (some as) s.pending hb (fun _ hz => Option.some.inj hz ▸ List.Subset.refl _) (fun _ => Option.some_ne_none as)

/-- A command that waits for the answer to the transaction it has issued. -/
theorem RunInv.issue {a : Action} {rest : List Action} {s : State} (h : RunInv (a :: rest) s) (hb : s.busy = true)
    (payload : List Byte) : (s.issue payload rest).Inv :=
  h.inv (some rest) (some _) hb (fun _ hz => Option.some.inj hz ▸ List.subset_cons_self a rest)
    (fun _ => Option.some_ne_none rest)

theorem RunInv.microAction {as : List Action} {s : State} (h : RunInv as s) (hb : s.busy = true) :
    (microAction as s).Inv := by
  cases as with
  | nil => exact h.complete
  | cons a rest =>
    cases a with
    | zeroFill => exact h.zeroFill.plan hb
    | setBit p v => exact h.setBit.plan (by simpa using hb)
    | sendCmd b => exact h.issue hb _
    | sendData => exact h.issue hb _
    | ready => exact h.completeInit

/-- The start of the accepted command: an error, or a plan of its actions in a state that is ready for them. -/
theorem startCommand_inv_cases {s : State} (h : s.Inv) {i : Instr} (hacc : s.Accepted i) :
    (∃ c, startCommand i s = s.raise c) ∨
    ∃ as u, startCommand i s = u.plan as ∧ u.busy = true ∧ RunInv as u := by
  obtain ⟨hb, -, -, hd⟩ := hacc
  obtain ⟨c, he⟩ | ⟨rfl, hr, hg, he⟩ | ⟨-, hr, he⟩ := startCommand_cases i s
  · exact .inl ⟨c, he⟩
  · exact .inr ⟨_, _, he, hb, initBegun_runInv s h _ hr hd hg⟩
  · exact .inr ⟨_, _, he, hb, h.runInv_of_ready hr hd⟩

theorem State.Inv.startCommand {s : State} (h : s.Inv) {i : Instr} (hacc : s.Accepted i) :
    (startCommand i s).Inv := by
  obtain ⟨c, he⟩ | ⟨as, u, he, hb, hrun⟩ := startCommand_inv_cases h hacc
  · rw [he]; exact h.raise c
  · rw [he]; exact hrun.plan hb

theorem State.Inv.exec {s t : State} (h : s.Inv) {i : Instr} (hacc : s.Accepted i) (ht : exec i s = .next t) :
    t.Inv := by
  rw [exec_eq] at ht
  cases ht
  obtain ⟨c, he⟩ | ⟨as, u, he, hb, hrun⟩ := startCommand_inv_cases h hacc
  · rw [he, engineRun_raise]; exact h.raise c
  · rw [he, engineRun_plan]; exact runActions_inv as u hrun hb

theorem State.Inv.engineTurn {s t : State} (h : s.Inv) (ht : engineTurn s = .next t) : t.Inv := by
  obtain ⟨-, he⟩ | ⟨as, hb, -, htodo, he⟩ | ⟨i, hacc, he⟩ | ⟨e, -, -, -, -, he⟩ := engineTurn_cases s
  · rw [he] at ht; cases ht; exact h
  · rw [he] at ht; cases ht; exact runActions_inv as s (h.runInv_of_todo htodo) hb
  · exact h.exec hacc (he.symm.trans ht)
  · rw [he] at ht; cases ht; exact h.raise .illegal

theorem State.Inv.microTurn {s : State} (h : s.Inv) : (microTurn s).Inv := by
  obtain ⟨-, he⟩ | ⟨as, hb, -, htodo, he⟩ | ⟨i, hacc, he⟩ | ⟨e, -, -, -, -, he⟩ := microTurn_cases s
  · rw [he]; exact h
  · rw [he]; exact (h.runInv_of_todo htodo).microAction hb
  · rw [he]; exact h.startCommand hacc
  · rw [he]; exact h.raise .illegal

/-! ## The transport's turn -/

/-- The command goes on with the actions it had left. -/
theorem State.Inv.record {s : State} (h : s.Inv) (res : TxResult) : (s.record res).Inv := by
  unfold State.record
  split
  · exact ⟨h.canonical, h.inside, h.geometry, h.notYet, h.errcode, h.codeKnown, fun hb => ⟨(h.idle hb).1, rfl⟩,
      fun hp => absurd rfl hp, h.progress, h.heldAccess⟩
  · exact h

theorem State.Inv.answerTurn {s : State} (h : s.Inv) (a : Answer) : (answerTurn a s).Inv := by
  unfold Machine.answerTurn
  split
  · cases a with
    | ack => exact h.record .ack
    | fail => exact (h.record .fail).raise .transport
  · exact h

/-- Settles O44, agent by agent: the host's, the engine's and the transport's turn keep the invariant, and a reset
establishes it again. -/
theorem invariantKeptByEveryStep : Obligations.InvariantKeptByEveryStep := by
  intro s t hinv hstep
  obtain ⟨r, -, rfl⟩ | ⟨r, hmove⟩ := step_next_cases hstep
  · exact resetInput_inv _
  · have hu := hinv.withTurns r
    cases hmove with
    | host h => rw [h]; exact hu.hostTurn
    | engine h => exact hu.engineTurn h
    | micro h => rw [h]; exact hu.microTurn
    | answer a h => rw [h]; exact hu.answerTurn a
    | lateAnswer h => rw [h]; exact hu

end Sys2Proof.Machine
end

section
/-!
PROOFS. The registers of the host port (10_state.md R13 to R19): what an access to each does, held or not.
-/

namespace Sys2Proof.Machine

/-! ## Accesses held, and accesses that take effect (70_reset_and_hazards.md R101, R102) -/

section
variable {s : State} {r : List Turn} {k : WordIndex} {v : Word} {ops : List HostOp}

theorem step_host_wr_held (hport : s.cfg.StandardPort) (hturns : s.turns = .host :: r)
    (hk : (hostReg k).heldWrite = true) (hprog : s.hostProg = .wr k v :: ops) (hb : s.busy = true) :
    step s = .next { s with held := true, turns := r } := by
  simp [step_host_wr s r k v ops hport hturns hprog, hk, hb]

theorem step_host_wr_taken (hport : s.cfg.StandardPort) (hturns : s.turns = .host :: r)
    (hk : s.busy = false ∨ (hostReg k).heldWrite = false) (hprog : s.hostProg = .wr k v :: ops) :
    step s = .next { s.regStore (hostReg k) v with hostProg := ops, held := false, turns := r } := by
  rw [step_host_wr s r k v ops hport hturns hprog, if_neg (by rcases hk with hk | hk <;> simp [hk])]

theorem step_host_rd_held (hport : s.cfg.StandardPort) (hturns : s.turns = .host :: r)
    (hk : (hostReg k).heldRead = true) (hprog : s.hostProg = .rd k :: ops) (hb : s.busy = true) :
    step s = .next { s with held := true, turns := r } := by
  simp [step_host_rd s r k ops hport hturns hprog, hk, hb]

theorem step_host_rd_taken (hport : s.cfg.StandardPort) (hturns : s.turns = .host :: r)
    (hk : s.busy = false ∨ (hostReg k).heldRead = false) (hprog : s.hostProg = .rd k :: ops) :
    step s = .next { s with readData := s.regValue (hostReg k), hostProg := ops, held := false, turns := r } := by
  rw [step_host_rd s r k ops hport hturns hprog, if_neg (by rcases hk with hk | hk <;> simp [hk])]

end

/-! ## STATUS -/

theorem writeStatus_of_set {v : Word} (h : v.getLsbD 2 = true) (s : State) : s.writeStatus v = s.clearErr := if_pos h

theorem writeStatus_of_clear {v : Word} (h : v.getLsbD 2 = false) (s : State) : s.writeStatus v = s :=
  if_neg (Bool.eq_false_iff.mp h)

/-- Settles O7: a STATUS write is held, and what it does when it takes effect is `State.writeStatus`. -/
theorem statusWriteClearsErrOnly : Obligations.StatusWriteClearsErrOnly := by
  intro s v ops r hport hprog hturns
  have taken (hb : s.busy = false) :
      step s = .next { s.writeStatus v with hostProg := ops, held := false, turns := r } :=
    step_host_wr_taken hport hturns (.inl hb) hprog
  refine ⟨step_host_wr_held hport hturns rfl hprog, fun hb hbit => ?_, fun hb hbit => ?_⟩
  · rw [taken hb, writeStatus_of_set hbit]; rfl
  · rw [taken hb, writeStatus_of_clear hbit]

/-! ## ARG0, ARG1, ARG2 -/

/-- Settles O8: no access to an ARG register is held, and a write of one stores the value in it alone. -/
theorem argRegistersReadAndWriteAtAnyTime : Obligations.ArgRegistersReadAndWriteAtAnyTime := by
  intro s v ops r hport hturns
  exact ⟨step_host_wr_taken hport hturns (.inr rfl), step_host_wr_taken hport hturns (.inr rfl),
    step_host_wr_taken hport hturns (.inr rfl), step_host_rd_taken hport hturns (.inr rfl),
    step_host_rd_taken hport hturns (.inr rfl), step_host_rd_taken hport hturns (.inr rfl)⟩

/-! ## GEOM -/

theorem geom_toNat_of_ready {s : State} (hready : s.ready = true) :
    s.geom.toNat = s.h.toNat * 65536 + s.w.toNat := by
  rw [State.geom, if_pos hready, BitVec.toNat_append, ← Nat.shiftLeft_add_eq_or_of_lt s.w.isLt, Nat.shiftLeft_eq]

theorem geom_of_notReady {s : State} (hready : s.ready = false) : s.geom = 0#32 :=
  if_neg (Bool.eq_false_iff.mp hready)

/-- Settles O9: a GEOM read is held, a GEOM write is not and stores nothing. -/
theorem geomReadsLatchedGeometry : Obligations.GeomReadsLatchedGeometry := by
  intro s v ops r hport hturns
  exact ⟨geom_toNat_of_ready, geom_of_notReady,
    fun hprog hb => step_host_rd_taken hport hturns (.inl hb) hprog,
    step_host_rd_held hport hturns rfl,
    step_host_wr_taken hport hturns (.inr rfl)⟩

/-! ## CMD -/

/-- The OPCODE of a command, with the upper bits of the word 0, decodes to it (30_encoding.md R46). -/
theorem decodeLatched_opcode (i : Instr) : decodeLatched true i.opcode = .ok i := by cases i <;> rfl

/-- The engine's step of an accepted command (60_exceptions.md R88). -/
theorem step_engine_accepted {s : State} {i : Instr} (h : s.Accepted i) (q : List Turn) :
    step { s with turns := .engine :: q } = exec i { s with turns := q } := by
  rw [step_turn _ .engine q rfl]
  exact engineTurn_accepted { s with turns := q } i h

/-- An accepted word with CMD[31:8] not 0 ends with ILLEGAL (30_encoding.md R47, R48). -/
theorem step_engine_reservedBits {s : State} (hb : s.busy = true) (htodo : s.todo = none) (hp : s.pending = none)
    (hhigh : s.lcmdHigh0 = false) (q : List Turn) :
    step { s with turns := .engine :: q } = .next (State.refusedWith { s with turns := q } 2#4) := by
  rw [step_turn _ .engine q rfl, takeTurn, engineTurn]
  simp only [hb, htodo, hp, hhigh, decodeLatched]
  rfl

/-- Settles O54: a CMD read is not held, a CMD write is, and when it takes effect it is an acceptance, after which the
engine decodes the latched word. -/
theorem cmdRegisterSubmitsAndReadsZero : Obligations.CmdRegisterSubmitsAndReadsZero := by
  intro s v ops r q hport hturns
  refine ⟨step_host_rd_taken hport hturns (.inr rfl), step_host_wr_held hport hturns rfl, fun hprog hb => ?_⟩
  refine ⟨_, step_host_wr_taken hport hturns (.inl hb) hprog, rfl, fun i hhigh hop => ?_, fun hhigh => ?_⟩
  · have hdecode : decodeLatched (reservedZero v) (v.extractLsb' 0 8) = .ok i := by
      rw [reservedZero, hhigh, hop]
      exact decodeLatched_opcode i
    exact step_engine_accepted ⟨rfl, rfl, rfl, hdecode⟩ q
  · exact step_engine_reservedBits rfl rfl rfl (decide_eq_false hhigh) q

end Sys2Proof.Machine
end

section
/-!
PROOFS. What every step keeps of the configuration (10_state.md R10), of the framebuffer above the frame (R21) and of
STATUS (R14): shown of each elementary act of the engine, and of the other agents' moves.
-/

namespace Sys2Proof.Machine

/-! ## The configuration -/

/-- An act of the engine keeps everything `EngineKeeps` names. -/
theorem EngineAct.keeps {s t : State} (h : EngineAct s t) : EngineKeeps s t := by
  cases h with
  | setBit p v => exact keeps_fbSetBit s p v
  | record res => constructor <;> simp
  | _ => constructor <;> rfl

theorem EngineActs.keeps {s t : State} (h : EngineActs s t) : EngineKeeps s t := by
  induction h with
  | refl => exact EngineKeeps.refl s
  | tail _ hact ih => exact ih.trans hact.keeps

theorem EngineMove.cfg {s t : State} (h : EngineMove s t) : t.cfg = s.cfg := by
  cases h with
  | nothing h => rw [h]
  | refuse c h => rw [h, raise_cfg]
  | acts _ h => exact h.keeps.cfg
  | initBegins _ _ h => exact h.keeps.cfg

theorem dropHeld_cfg (s : State) : s.dropHeld.cfg = s.cfg := by
  unfold State.dropHeld
  split
  · split <;> rfl
  · rfl

theorem resetInput_cfg (s : State) : s.resetInput.cfg = s.cfg := by
  rw [State.resetInput, toReset_cfg, dropHeld_cfg, record_cfg]

/-- Settles O50, agent by agent. -/
theorem configurationNeverChanges : Obligations.ConfigurationNeverChanges := by
  intro s t hstep
  obtain ⟨r, -, rfl⟩ | ⟨r, hmove⟩ := step_next_cases hstep
  · exact resetInput_cfg _
  · cases hmove with
    | host h =>
      obtain ⟨-, -, hcfg, -⟩ := hostTurn_keeps { s with turns := r }
      rw [h, hcfg]
    | engine h => exact (engineTurn_move h).cfg
    | micro h => rw [h]; exact (microTurn_move _).cfg
    | answer a h => rw [h]; exact (answerTurn_acts a _).keeps.cfg
    | lateAnswer h => rw [h]

/-! ## The framebuffer above the frame -/

theorem fbRead_congr {s t : State} (hfb : t.fb = s.fb) (hepoch : t.fbEpoch = s.fbEpoch) (i : Nat) :
    t.fbRead i = s.fbRead i := by
  rw [State.fbRead, State.fbRead, hfb, hepoch]

theorem EngineKeeps.frameBytes {s t : State} (h : EngineKeeps s t) : t.frameBytes = s.frameBytes := by
  rw [State.frameBytes, State.pages, h.w, h.h, State.frameBytes, State.pages]

theorem fbRead_zeroFill_above (s : State) {i : Nat} (hi : s.frameBytes ≤ i) : s.zeroFill.fbRead i = s.fbRead i := by
  rw [fbRead_zeroFill, if_neg (Nat.not_lt.mpr hi)]

/-- An in-range pixel is in a byte of the frame, H being a multiple of 8. -/
theorem fbRead_fbSetBit_above (s : State) (p : Point) (v : Bool) {i : Nat} (hh : s.h.toNat % 8 = 0)
    (hi : s.frameBytes ≤ i) : (s.fbSetBit p v).fbRead i = s.fbRead i := by
  rw [fbRead_fbSetBit, if_neg]
  rintro ⟨hin, rfl⟩
  obtain ⟨hx0, hx, hy0, hy⟩ := (inRange_iff s p).mp hin
  have hlt : pixIndex s.w.toNat p.x.toNat p.y.toNat < s.frameBytes :=
    pixIndex_lt _ _ _ _ hh (by omega) (by omega)
  exact Nat.not_lt.mpr hi hlt

theorem EngineAct.fbRead_above {s t : State} (h : EngineAct s t) {i : Nat} (hh : s.h.toNat % 8 = 0)
    (hi : s.frameBytes ≤ i) : t.fbRead i = s.fbRead i := by
  cases h with
  | zeroFill => exact fbRead_zeroFill_above s hi
  | setBit p v => exact fbRead_fbSetBit_above s p v hh hi
  | record res => exact fbRead_congr (record_fb s res) (record_fbEpoch s res) i
  | _ => rfl

theorem EngineActs.fbRead_above {s t : State} (h : EngineActs s t) {i : Nat} (hh : s.h.toNat % 8 = 0)
    (hi : s.frameBytes ≤ i) : t.fbRead i = s.fbRead i := by
  induction h with
  | refl => rfl
  | tail hacts hact ih =>
    have hkeeps := EngineActs.keeps hacts
    rw [hact.fbRead_above (by rw [hkeeps.h, hh]) (by rw [hkeeps.frameBytes]; exact hi), ih]

theorem height_mod_of_legal {c : Config} {w h : Nat} (hg : geometryLegal c w h = true) : h % 8 = 0 := by
  obtain ⟨-, -, -, -, hmod⟩ := (geometryLegal_iff c w h).mp hg
  exact hmod

/-- Nothing is drawn but in a legal geometry, and INIT fills the frame of the geometry it latches. -/
theorem EngineMove.fbRead_above {s t : State} (h : EngineMove s t) (hinv : s.Inv) {i : Nat}
    (hi : t.frameBytes ≤ i) : t.fbRead i = s.fbRead i := by
  cases h with
  | nothing h => rw [h]
  | refuse c h => rw [h]; rfl
  | acts hg h =>
    rw [h.keeps.frameBytes] at hi
    exact h.fbRead_above (height_mod_of_legal (hinv.geometry hg).1) hi
  | initBegins _ hg h =>
    rw [h.keeps.frameBytes] at hi
    calc t.fbRead i = (initBegun s).fbRead i := h.fbRead_above (height_mod_of_legal hg) hi
      _ = (s.setGeometry s.width s.height s.extIn).fbRead i := fbRead_zeroFill_above _ hi
      _ = s.fbRead i := rfl

theorem AgentMove.fbRead_above {s t : State} (h : AgentMove s t) (hinv : s.Inv) {i : Nat} (hi : t.frameBytes ≤ i) :
    t.fbRead i = s.fbRead i := by
  cases h with
  | host h =>
    obtain ⟨hfb, -, -, -, -, -, -, hepoch, -⟩ := hostTurn_keeps s
    rw [h]; exact fbRead_congr hfb hepoch i
  | engine h => exact (engineTurn_move h).fbRead_above hinv hi
  | micro h => exact (h ▸ microTurn_move s).fbRead_above hinv hi
  | answer a h =>
    obtain ⟨hfb, -, -, -, -, -, hepoch, -⟩ := answerTurn_keeps a s
    rw [h]; exact fbRead_congr hfb hepoch i
  | lateAnswer h => rw [h]

theorem winByte_above (s : State) {i : Nat} (hi : s.frameBytes ≤ i) : s.winByte i = 0x00#8 := by
  simp [State.winByte, Nat.not_lt.mpr hi]

/-- Settles O48: no agent's move changes a byte above the new frame, and the window ends with the frame. -/
theorem bytesAboveTheFrameAreNeverWritten : Obligations.BytesAboveTheFrameAreNeverWritten := by
  intro s t hinv hstep hnoReset i hi
  obtain ⟨r, hreset, -⟩ | ⟨r, hmove⟩ := step_next_cases hstep
  · exact absurd hreset (hnoReset r)
  · exact ⟨hmove.fbRead_above (hinv.withTurns r) hi, winByte_above t hi⟩

/-! ## STATUS -/

/-- A move of the engine from `s` to `t` clears no error, and changes no field of STATUS as long as BUSY stays 1. -/
structure StatusKept (s t : State) : Prop where
  sticky : s.err = true → t.err = true
  whileBusy : t.busy = true → t.status = s.status

theorem StatusKept.refl (s : State) : StatusKept s s := ⟨id, fun _ => rfl⟩

theorem status_busy (s : State) : s.status.getLsbD 0 = s.busy := (status_fields s).1

/-- STATUS shows BUSY, so BUSY was 1 in between. -/
theorem StatusKept.trans {s t u : State} (h : StatusKept s t) (h' : StatusKept t u) : StatusKept s u := by
  refine ⟨h'.sticky ∘ h.sticky, fun hu => ?_⟩
  have ht : t.busy = true := by rw [← status_busy, ← h'.whileBusy hu, status_busy, hu]
  rw [h'.whileBusy hu, h.whileBusy ht]

/-- A command that ends leaves BUSY = 0. -/
theorem StatusKept.of_ends {s t : State} (hb : t.busy = false) (herr : s.err = true → t.err = true) :
    StatusKept s t :=
  ⟨herr, fun h => absurd (hb.symm.trans h) Bool.false_ne_true⟩

theorem StatusKept.of_status {s t : State} (h : t.status = s.status) (herr : t.err = s.err) : StatusKept s t :=
  ⟨herr.trans, fun _ => h⟩

theorem status_fbSetBit (s : State) (p : Point) (v : Bool) : (s.fbSetBit p v).status = s.status := by
  simp [State.status, State.extpwr, State.errcodeField]

theorem status_record (s : State) (res : TxResult) : (s.record res).status = s.status := by
  simp [State.status, State.extpwr, State.errcodeField]

/-- EXTPWR reads 0 before READY, whatever INIT has latched. -/
theorem status_initBegun {s : State} (hr : s.ready = false) : (initBegun s).status = s.status := by
  have hext : (initBegun s).extpwr = s.extpwr := by simp [State.extpwr, initBegun, hr]
  rw [State.status, State.status, hext]
  rfl

theorem EngineAct.statusKept {s t : State} (h : EngineAct s t) : StatusKept s t := by
  cases h with
  | setBit p v => exact .of_status (status_fbSetBit s p v) (fbSetBit_err s p v)
  | record res => exact .of_status (status_record s res) (record_err s res)
  | raise c => exact .of_ends rfl fun _ => rfl
  | complete => exact .of_ends rfl id
  | completeInit => exact .of_ends rfl id
  | _ => exact .of_status rfl rfl

theorem EngineActs.statusKept {s t : State} (h : EngineActs s t) : StatusKept s t := by
  induction h with
  | refl => exact StatusKept.refl s
  | tail _ hact ih => exact ih.trans hact.statusKept

theorem EngineMove.statusKept {s t : State} (h : EngineMove s t) : StatusKept s t := by
  cases h with
  | nothing h => exact h ▸ StatusKept.refl s
  | refuse c h => exact h ▸ EngineAct.statusKept (.raise s c)
  | acts _ h => exact h.statusKept
  | initBegins hr _ h => exact (StatusKept.of_status (status_initBegun hr) rfl).trans h.statusKept

/-- CMD and STATUS are the registers whose writes STATUS shows, and they are held while BUSY = 1. -/
theorem status_regStore {g : HostReg} (hg : g.heldWrite = false) (s : State) (v : Word) :
    (s.regStore g v).status = s.status := by
  cases g with
  | cmd => cases hg
  | status => cases hg
  | _ => rfl

theorem status_hostPerform {s : State} {op : HostOp} (hop : op.holdable s.cfg = false) :
    (s.hostPerform op).status = s.status := by
  cases op with
  | wr k v => exact status_regStore hop s (portData s.cfg v)
  | rd k => rfl
  | wait =>
    rw [State.hostPerform]
    obtain hw | hw := hostWaits_cases s (s.hostValue 1#9) <;> rw [hw] <;> rfl

theorem status_hostTurn_of_busy {s : State} (hb : s.busy = true) : (hostTurn s).status = s.status := by
  obtain ⟨-, h⟩ | ⟨op, ops, -, -, -, h⟩ | ⟨op, ops, -, hop, h⟩ := hostTurn_cases s
  · rw [h]
  · rw [h]; rfl
  · rw [h]; exact status_hostPerform (hop.resolve_left (by simp [hb]))

theorem AgentMove.status_of_busy {s t : State} (h : AgentMove s t) (hs : s.busy = true) (ht : t.busy = true) :
    t.status = s.status := by
  cases h with
  | host h => rw [h]; exact status_hostTurn_of_busy hs
  | engine h => exact (engineTurn_move h).statusKept.whileBusy ht
  | micro h => exact (h ▸ microTurn_move s).statusKept.whileBusy ht
  | answer a h => exact (h ▸ answerTurn_acts a s).statusKept.whileBusy ht
  | lateAnswer h => rw [h]

/-! ## ERR is sticky -/

/-- The one write that clears ERR (10_state.md R15). -/
theorem regStore_clears_err {s : State} {g : HostReg} {v : Word} (hs : s.err = true)
    (ht : (s.regStore g v).err = false) : g = .status ∧ v.getLsbD 2 = true := by
  have kept (h : s.err = false) : g = .status ∧ v.getLsbD 2 = true := by simp [hs] at h
  cases g with
  | status =>
    refine ⟨rfl, ?_⟩
    by_contra hbit
    rw [State.regStore, writeStatus_of_clear (Bool.eq_false_iff.mpr hbit), hs] at ht
    cases ht
  | _ => exact kept ht

theorem eq_wordAt_of_hostReg_status {k : WordIndex} (h : hostReg k = .status) : k = wordAt 0x004 := by
  by_contra hk
  have hk' : k ≠ 1#9 := hk
  unfold hostReg at h
  split_ifs at h

theorem hostPerform_clears_err {s : State} {op : HostOp} (hport : s.cfg.StandardPort) (hs : s.err = true)
    (ht : (s.hostPerform op).err = false) : ∃ v, op = .wr (wordAt 0x004) v ∧ v.getLsbD 2 = true := by
  have kept (h : s.err = false) : False := by simp [hs] at h
  cases op with
  | wr k v =>
    rw [State.hostPerform, hostAdvance_err, hostStore_standard hport] at ht
    obtain ⟨hreg, hbit⟩ := regStore_clears_err hs ht
    exact ⟨v, by rw [eq_wordAt_of_hostReg_status hreg], hbit⟩
  | rd k => exact (kept ht).elim
  | wait =>
    rw [State.hostPerform] at ht
    obtain hw | hw := hostWaits_cases s (s.hostValue 1#9) <;> rw [hw] at ht <;> exact (kept ht).elim

/-- A STATUS write takes effect with BUSY = 0 only. -/
theorem hostTurn_clears_err {s : State} (hport : s.cfg.StandardPort) (hs : s.err = true)
    (ht : (hostTurn s).err = false) :
    ∃ v ops, s.hostProg = .wr (wordAt 0x004) v :: ops ∧ v.getLsbD 2 = true ∧ s.busy = false := by
  obtain ⟨-, h⟩ | ⟨op, ops, -, -, -, h⟩ | ⟨op, ops, hprog, hop, h⟩ := hostTurn_cases s
  · rw [h, hs] at ht; cases ht
  · rw [h] at ht; simp [hs] at ht
  · rw [h] at ht
    obtain ⟨v, rfl, hbit⟩ := hostPerform_clears_err hport hs ht
    refine ⟨v, ops, hprog, hbit, hop.resolve_right ?_⟩
    rw [HostOp.holdable, portReg_standard hport]
    decide

theorem AgentMove.clears_err {s t : State} (h : AgentMove s t) (hport : s.cfg.StandardPort) (hs : s.err = true)
    (ht : t.err = false) :
    ∃ v ops, s.hostProg = .wr (wordAt 0x004) v :: ops ∧ v.getLsbD 2 = true ∧ s.busy = false := by
  have sticky (hk : StatusKept s t) : False := by simp [hk.sticky hs] at ht
  cases h with
  | host h => exact hostTurn_clears_err hport hs (h ▸ ht)
  | engine h => exact (sticky (engineTurn_move h).statusKept).elim
  | micro h => exact (sticky (h ▸ microTurn_move s).statusKept).elim
  | answer a h => exact (sticky (h ▸ answerTurn_acts a s).statusKept).elim
  | lateAnswer h => exact (sticky (h ▸ StatusKept.refl s)).elim

/-- Settles O6: the fields from the bits of `State.status`; a STATUS read is never held; and the two clauses on steps
agent by agent, as a reset leaves BUSY = 0. -/
theorem statusReadsAndChangesAsTheRuleSays : Obligations.StatusReadsAndChangesAsTheRuleSays := by
  intro s
  refine ⟨status_fields s, fun ops r hport hprog hturns => step_host_rd_taken hport hturns (.inr rfl) hprog,
    fun t hstep hs ht => ?_, fun t hport hstep hs ht => ?_⟩
  · obtain ⟨r, -, rfl⟩ | ⟨r, hmove⟩ := step_next_cases hstep
    · cases ht
    · exact hmove.status_of_busy hs ht
  · obtain ⟨r, hreset, -⟩ | ⟨r, hmove⟩ := step_next_cases hstep
    · exact .inl ⟨r, hreset⟩
    · exact .inr (hmove.clears_err hport hs ht)

end Sys2Proof.Machine
end

section
/-!
PROOFS. The memory seen from the host (20_memory.md R26 to R29), the layout of the framebuffer and its pixel primitive
(R30, R33), and the receiver assumption (R45).
-/

namespace Sys2Proof.Machine

/-! ## Offsets that no write reaches (R28) -/

/-- From 0x014 on every offset is GEOM, unmapped or the framebuffer window: a write of it is never held, and stores
nothing. -/
theorem write_ignored_of_readOnly {off : Nat} (hlo : 0x014 ≤ off) (hhi : off ≤ 0x7FC) (hal : off % 4 = 0) :
    (hostReg (wordAt off)).heldWrite = false ∧ ∀ (s : State) (v : Word), s.regStore (hostReg (wordAt off)) v = s := by
  obtain rfl | hunmapped | hwin : off = 0x014 ∨ (0x018 ≤ off ∧ off ≤ 0x3FC) ∨ 0x400 ≤ off := by omega
  · exact ⟨rfl, fun _ _ => rfl⟩
  · rw [hostReg_unmapped off hal hunmapped.1 hunmapped.2]
    exact ⟨rfl, fun _ _ => rfl⟩
  · rw [hostReg_fbwin off hal hwin hhi]
    exact ⟨rfl, fun _ _ => rfl⟩

/-! ## No host turn raises an error (R28) -/

/-- A step from `s` to `t` raises no error: ERR is 1 only where it was, and with the same code. -/
def RaisesNoError (s t : State) : Prop := t.err = true → s.err = true ∧ t.errcode = s.errcode

theorem RaisesNoError.of_eq {s t : State} (herr : t.err = s.err) (hcode : t.errcode = s.errcode) : RaisesNoError s t :=
  fun h => ⟨herr ▸ h, hcode⟩

/-- A write changes ERR by clearing it only. -/
theorem regStore_raisesNoError (s : State) (g : HostReg) (v : Word) : RaisesNoError s (s.regStore g v) := by
  cases g with
  | status =>
    rw [State.regStore, State.writeStatus]
    split
    · exact fun h => absurd h Bool.false_ne_true
    · exact .of_eq rfl rfl
  | _ => exact .of_eq rfl rfl

theorem hostPerform_raisesNoError (s : State) (op : HostOp) : RaisesNoError s (s.hostPerform op) := by
  cases op with
  | wr k v => exact regStore_raisesNoError s (portReg s.cfg k) (portData s.cfg v)
  | rd k => exact .of_eq rfl rfl
  | wait =>
    rw [State.hostPerform]
    obtain hw | hw := hostWaits_cases s (s.hostValue 1#9) <;> rw [hw] <;> exact .of_eq rfl rfl

theorem hostTurn_raisesNoError (s : State) : RaisesNoError s (hostTurn s) := by
  obtain ⟨-, h⟩ | ⟨op, ops, -, -, -, h⟩ | ⟨op, ops, -, -, h⟩ := hostTurn_cases s
  · rw [h]; exact .of_eq rfl rfl
  · rw [h]; exact .of_eq rfl rfl
  · rw [h]; exact hostPerform_raisesNoError s op

theorem hostTurn_lastfail (s : State) : (hostTurn s).lastfail = s.lastfail := by
  obtain ⟨-, -, -, -, -, -, -, -, -, hlastfail⟩ := hostTurn_keeps s
  exact hlastfail

/-- Settles O10: an unmapped read is not held and shows 0, a write from 0x014 on stores nothing, and whatever the access
is, the host's turn raises no error. -/
theorem unmappedAndReadOnlyOffsets : Obligations.UnmappedAndReadOnlyOffsets := by
  intro s off v ops r hport hturns hhi hal
  refine ⟨fun hlo hend hprog => ?_, fun hlo hprog => ?_, fun t hstep => ?_⟩
  · have hreg := hostReg_unmapped off hal hlo hend
    rw [step_host_rd_taken hport hturns (.inr (by rw [hreg]; rfl)) hprog, hreg]
    rfl
  · obtain ⟨hheld, hstore⟩ := write_ignored_of_readOnly hlo hhi hal
    rw [step_host_wr_taken hport hturns (.inr hheld) hprog, hstore]
  · rw [step_turn s .host r hturns] at hstep
    cases hstep
    exact ⟨hostTurn_lastfail _, hostTurn_raisesNoError _⟩

/-! ## The framebuffer window (R29) -/

theorem winByte_eq (s : State) (i : Nat) :
    s.winByte i = if s.ready = true ∧ i < s.frameBytes then s.fbRead i else 0x00#8 := by
  simp only [State.winByte, Bool.and_eq_true, decide_eq_true_eq]

open BitVec in
/-- The window word is little-endian: byte `j` is bits `8j` to `8j + 7`. -/
theorem winWord_byte (s : State) (k : Nat) {j : Nat} (hj : j < 4) :
    (s.winWord k).extractLsb' (8 * j) 8 = s.winByte (4 * k + j) := by
  obtain rfl | rfl | rfl | rfl : j = 0 ∨ j = 1 ∨ j = 2 ∨ j = 3 := by omega
  · exact extractLsb'_append_eq_right
  · exact (extractLsb'_append_eq_of_le (by decide)).trans extractLsb'_append_eq_right
  · exact (extractLsb'_append_eq_of_le (by decide)).trans
      ((extractLsb'_append_eq_of_le (by decide)).trans extractLsb'_append_eq_right)
  · exact (extractLsb'_append_eq_of_le (by decide)).trans
      ((extractLsb'_append_eq_of_le (by decide)).trans extractLsb'_append_eq_left)

theorem hostReg_window {k : Nat} (hk : k < 256) : hostReg (wordAt (0x400 + 4 * k)) = .fbwin k := by
  have hindex : (0x400 + 4 * k) / 4 - 256 = k := by omega
  rw [hostReg_fbwin (0x400 + 4 * k) (by omega) (by omega) (by omega), hindex]

/-- Settles O11: the bytes of the word, and the offset names word `k` of the window, whose reads are held. -/
theorem framebufferWindowReads : Obligations.FramebufferWindowReads := by
  intro s k hk
  refine ⟨fun j hj => ?_, fun ops r hport hprog hturns => ⟨fun hb => ?_, fun hb => ?_⟩⟩
  · rw [winWord_byte s k hj]
    exact winByte_eq s (4 * k + j)
  · rw [step_host_rd_taken hport hturns (.inl hb) hprog, hostReg_window hk]
    rfl
  · exact step_host_rd_held hport hturns (by rw [hostReg_window hk]; rfl) hprog hb

/-! ## The pixel primitive (R33) -/

theorem fbSetBit_of_outOfRange {s : State} {p : Point} (h : ¬ s.inRange p = true) (v : Bool) : s.fbSetBit p v = s :=
  if_neg h

/-- Settles O24: the framebuffer alone changes, and in it the pixel's own bit (`fbBit_fbSetBit`). -/
theorem fbSetBitChangesOneBitOrNothing : Obligations.FbSetBitChangesOneBitOrNothing := by
  intro s p v
  refine ⟨drawAll_rest s [p] v, fun hout => ?_, fun hx0 hx hy0 hy i b hb => ?_⟩
  · rw [← inRange_iff] at hout
    exact fbSetBit_of_outOfRange hout v
  · have hin : s.inRange p = true := (inRange_iff s p).mpr ⟨hx0, hx, hy0, hy⟩
    rw [fbBit_fbSetBit s p v i b hb]
    simp only [hin, true_and, pixIndex]

/-! ## The layout (R30) -/

/-- The column of a pixel is its byte's index modulo W. -/
theorem pixIndex_mod {w x : Nat} (hx : x < w) (y : Nat) : pixIndex w x y % w = x := by
  rw [pixIndex, Nat.mul_add_mod_self_right, Nat.mod_eq_of_lt hx]

/-- The page of a pixel is its byte's index divided by W. -/
theorem pixIndex_div {w x : Nat} (hx : x < w) (y : Nat) : pixIndex w x y / w = y / 8 := by
  rw [pixIndex, Nat.add_comm, Nat.add_mul_div_right _ _ (by omega), Nat.div_eq_of_lt hx, Nat.zero_add]

/-- No two pixels of the frame fall on one bit. -/
theorem pixIndex_injective {w x y x' y' : Nat} (hx : x < w) (hx' : x' < w)
    (hbyte : pixIndex w x y = pixIndex w x' y') (hbit : y % 8 = y' % 8) : x = x' ∧ y = y' := by
  have hcol : x = x' := by rw [← pixIndex_mod hx y, hbyte, pixIndex_mod hx' y']
  have hpage : y / 8 = y' / 8 := by rw [← pixIndex_div hx y, hbyte, pixIndex_div hx' y']
  exact ⟨hcol, by omega⟩

/-- Bit `b` of byte `i` of the frame is the pixel of column `i mod W` and row `8 * (i div W) + b`. -/
theorem pixIndex_surjective {w h i b : Nat} (hh : h % 8 = 0) (hi : i < h / 8 * w) (hb : b < 8) :
    ∃ x y, x < w ∧ y < h ∧ pixIndex w x y = i ∧ y % 8 = b := by
  have hw : 0 < w := Nat.pos_of_mul_pos_left (Nat.zero_lt_of_lt hi)
  have hpage : i / w < h / 8 := Nat.div_lt_of_lt_mul (by rwa [Nat.mul_comm])
  refine ⟨i % w, 8 * (i / w) + b, Nat.mod_lt i hw, by omega, ?_, by omega⟩
  rw [pixIndex, show (8 * (i / w) + b) / 8 = i / w by omega, Nat.div_add_mod']

/-- A frame within MAX_W and MAX_H fits in the framebuffer RAM. -/
theorem frame_le_fbCap {c : Config} {w h : Nat} (hh : h % 8 = 0) (hw : w ≤ c.maxW) (hmax : h ≤ c.maxH) :
    h / 8 * w ≤ c.fbCap := by
  rw [Config.fbCap, Nat.le_div_iff_mul_le (by omega)]
  calc h / 8 * w * 8 = w * (h / 8 * 8) := by ring
    _ = w * h := by rw [Nat.div_mul_cancel (Nat.dvd_of_mod_eq_zero hh)]
    _ ≤ c.maxW * c.maxH := Nat.mul_le_mul hw hmax

/-- Settles O39: column and page are the byte index modulo and divided by W. -/
theorem pixelLayoutIsOneToOne : Obligations.PixelLayoutIsOneToOne := by
  intro c w h hh
  refine ⟨fun x y hx hy => ⟨rfl, pixIndex_lt w h x y hh hx hy⟩,
    fun x y x' y' hx _ hx' _ hbyte hbit => pixIndex_injective hx hx' hbyte hbit,
    fun i b hi hb => pixIndex_surjective hh hi hb, ⟨rfl, fun hw hmax => frame_le_fbCap hh hw hmax⟩,
    fun s x y => rfl⟩

/-! ## The receiver (R45) -/

theorem toByte_toNat {n : Nat} (h : n < 256) : (toByte n).toNat = n := by
  rw [toByte, BitVec.toNat_ofNat, Nat.mod_eq_of_lt h]

/-- In a legal geometry no bound of the window is reduced modulo 256. -/
theorem windowOf_winSeq {w h : Nat} (hw : 1 ≤ w) (hmaxW : w ≤ 128) (hmaxH : h ≤ 64) :
    windowOf Ctrl.standard (winSeq Ctrl.standard w h) =
      some ⟨colOffset w, w - 1 + colOffset w, 0, h / 8 - 1⟩ := by
  have hoff : colOffset w + w ≤ 128 := by unfold colOffset; split <;> omega
  rw [winSeq, windowOf, if_pos ⟨rfl, rfl⟩, toByte_toNat (by omega), toByte_toNat (by omega), toByte_toNat (by omega)]
  rfl

/-- Settles O38: the window is W columns wide and PAGES pages high, so column and page of a data byte are its index
modulo and divided by W. -/
theorem receiverGetsTheFramebufferOneToOne : Obligations.ReceiverGetsTheFramebufferOneToOne := by
  intro w h x y hw hmaxW _ hmaxH hh hx hy
  have hcols : w - 1 + colOffset w - colOffset w + 1 = w := by omega
  refine ⟨_, windowOf_winSeq hw hmaxW hmaxH, ?_, ?_⟩
  · have hpages : h / 8 - 1 - 0 + 1 = h / 8 := by omega
    rw [Window.page, hcols, hpages, pixIndex_div hx, Nat.mod_eq_of_lt (by omega), Nat.zero_add]
  · rw [Window.column, hcols, pixIndex_mod hx, colOffset, Nat.add_comm]

end Sys2Proof.Machine
end

section
/-!
PROOFS. Which moves write the framebuffer (20_memory.md R32).
-/

namespace Sys2Proof.Machine

theorem writesFramebuffer_iff (i : Instr) :
    writesFramebuffer i = true ↔ i = .init ∨ i = .clear ∨ i = .setPixel ∨ i = .drawLine := by
  cases i <;> decide

/-- The framebuffer is as before, or one of the actions writes it. -/
def FbChangedBy (as : List Action) (s t : State) : Prop := t.fb ≠ s.fb → ∃ a ∈ as, a.writesFb = true

theorem FbChangedBy.of_writes {a : Action} {as : List Action} {s t : State} (h : a.writesFb = true) :
    FbChangedBy (a :: as) s t :=
  fun _ => ⟨a, List.mem_cons_self, h⟩

theorem FbChangedBy.of_eq {as : List Action} {s t : State} (h : t.fb = s.fb) : FbChangedBy as s t :=
  fun hne => absurd h hne

/-- An action that leaves the framebuffer alone, and then the others. -/
theorem FbChangedBy.cons {a : Action} {as : List Action} {s t u : State} (h : FbChangedBy as t u) (hfb : t.fb = s.fb) :
    FbChangedBy (a :: as) s u := fun hne =>
  have ⟨b, hb, hw⟩ := h (hfb ▸ hne)
  ⟨b, List.mem_cons_of_mem a hb, hw⟩

/-- A transaction leaves the framebuffer alone, whatever the answer. -/
theorem transmit_fbChangedBy {as : List Action} (ih : ∀ s, FbChangedBy as s (runActions as s)) (a : Action) (s : State)
    (payload : List Byte) : FbChangedBy (a :: as) s (transmit s payload as (runActions as)) := by
  obtain ⟨r, -, h⟩ | ⟨r, -, h⟩ | ⟨-, h⟩ := transmit_cases s payload as (runActions as)
  · rw [h]; exact (ih _).cons rfl
  · rw [h]; exact .of_eq rfl
  · rw [h]; exact .of_eq rfl

theorem runActions_fbChangedBy (as : List Action) (s : State) : FbChangedBy as s (runActions as s) := by
  induction as generalizing s with
  | nil => exact .of_eq rfl
  | cons a as ih =>
    cases a with
    | zeroFill => exact .of_writes rfl
    | setBit p v => exact .of_writes rfl
    | sendCmd b => exact transmit_fbChangedBy ih _ s _
    | sendData => exact transmit_fbChangedBy ih _ s _
    | ready => exact .of_eq rfl

theorem microAction_fbChangedBy (as : List Action) (s : State) : FbChangedBy as s (microAction as s) := by
  cases as with
  | nil => exact .of_eq rfl
  | cons a as =>
    cases a with
    | zeroFill => exact .of_writes rfl
    | setBit p v => exact .of_writes rfl
    | _ => exact .of_eq rfl

/-- What changes by actions that belong to a command changes only if the command is one of the four. -/
theorem FbChangedBy.writesFramebuffer {as : List Action} {s t : State} (h : FbChangedBy as s t) {i : Instr}
    (hi : fbActionsBelong i as) (hne : t.fb ≠ s.fb) : writesFramebuffer i = true :=
  have ⟨a, ha, hw⟩ := h hne
  hi a ha hw

/-- The start of a command, and whatever the engine does next, change the framebuffer only for one of the four. -/
theorem startCommand_then_fb {k : State → State} (hraise : ∀ u c, k (State.raise u c) = u.raise c)
    (hplan : ∀ u as, FbChangedBy as u (k (State.plan u as))) {i : Instr} {s : State}
    (hne : (k (startCommand i s)).fb ≠ s.fb) : writesFramebuffer i = true := by
  obtain ⟨c, h⟩ | ⟨rfl, -, -, -⟩ | ⟨-, -, h⟩ := startCommand_cases i s
  · rw [h, hraise] at hne; exact absurd rfl hne
  · rfl
  · rw [h] at hne; exact (hplan _ _).writesFramebuffer (fbActionsBelong_readyActions i s) hne

theorem startCommand_fb {i : Instr} {s : State} (hne : (startCommand i s).fb ≠ s.fb) : writesFramebuffer i = true :=
  startCommand_then_fb (k := id) (fun _ _ => rfl) (fun _ _ => .of_eq rfl) hne

theorem exec_fb {i : Instr} {s t : State} (h : exec i s = .next t) (hne : t.fb ≠ s.fb) :
    writesFramebuffer i = true := by
  rw [exec_eq] at h
  cases h
  refine startCommand_then_fb engineRun_raise (fun u as => ?_) hne
  rw [engineRun_plan]
  exact runActions_fbChangedBy as u

/-- A command that writes the framebuffer is latched and runs. -/
def State.FbWriterRuns (s : State) : Prop :=
  s.busy = true ∧ ∃ i, decodeLatched s.lcmdHigh0 s.lcmd = .ok i ∧ writesFramebuffer i = true

/-- The actions left are those of the latched command. -/
theorem State.Inv.fbWriterRuns {s t : State} (h : s.Inv) {as : List Action} (hb : s.busy = true)
    (htodo : s.todo = some as) (hby : FbChangedBy as s t) (hne : t.fb ≠ s.fb) : s.FbWriterRuns :=
  have ⟨i, hd, hi⟩ := h.progress as htodo
  ⟨hb, i, hd, hby.writesFramebuffer hi hne⟩

theorem engineTurn_fb {s t : State} (hinv : s.Inv) (h : engineTurn s = .next t) (hne : t.fb ≠ s.fb) :
    s.FbWriterRuns := by
  obtain ⟨-, he⟩ | ⟨as, hb, -, htodo, he⟩ | ⟨i, ⟨hb, -, -, hd⟩, he⟩ | ⟨e, -, -, -, -, he⟩ := engineTurn_cases s
  · rw [he] at h; cases h; exact absurd rfl hne
  · rw [he] at h; cases h; exact hinv.fbWriterRuns hb htodo (runActions_fbChangedBy as s) hne
  · exact ⟨hb, i, hd, exec_fb (he.symm.trans h) hne⟩
  · rw [he] at h; cases h; exact absurd rfl hne

theorem microTurn_fb {s : State} (hinv : s.Inv) (hne : (microTurn s).fb ≠ s.fb) : s.FbWriterRuns := by
  obtain ⟨-, he⟩ | ⟨as, hb, -, htodo, he⟩ | ⟨i, ⟨hb, -, -, hd⟩, he⟩ | ⟨e, -, -, -, -, he⟩ := microTurn_cases s
  · rw [he] at hne; exact absurd rfl hne
  · rw [he] at hne; exact hinv.fbWriterRuns hb htodo (microAction_fbChangedBy as s) hne
  · rw [he] at hne; exact ⟨hb, i, hd, startCommand_fb hne⟩
  · rw [he] at hne; exact absurd rfl hne

theorem hostTurn_fb (s : State) : (hostTurn s).fb = s.fb := (hostTurn_keeps s).1

theorem answerTurn_fb (a : Answer) (s : State) : (answerTurn a s).fb = s.fb := (answerTurn_keeps a s).1

theorem AgentMove.fb {s t : State} (h : AgentMove s t) (hinv : s.Inv) (hne : t.fb ≠ s.fb) : s.FbWriterRuns := by
  cases h with
  | host h => exact absurd (h ▸ hostTurn_fb s) hne
  | engine h => exact engineTurn_fb hinv h hne
  | micro h => exact microTurn_fb hinv (h ▸ hne)
  | answer a h => exact absurd (h ▸ answerTurn_fb a s) hne
  | lateAnswer h => exact absurd (congrArg State.fb h) hne

/-- Settles O46, agent by agent: the engine writes the framebuffer by actions of the command it runs, and the invariant
says which command they are left of. -/
theorem onlyFourCommandsWriteTheFramebuffer : Obligations.OnlyFourCommandsWriteTheFramebuffer := by
  refine ⟨hostTurn_fb, answerTurn_fb, fun i s t h hne => (writesFramebuffer_iff i).mp (exec_fb h hne),
    fun s t hinv hstep hnoReset hne => ?_⟩
  obtain ⟨r, hreset, -⟩ | ⟨r, hmove⟩ := step_next_cases hstep
  · exact absurd hreset (hnoReset r)
  · obtain ⟨hb, i, hd, hw⟩ := hmove.fb (hinv.withTurns r) hne
    exact ⟨hb, i, hd, (writesFramebuffer_iff i).mp hw⟩

end Sys2Proof.Machine
end

section
/-!
PROOFS. The transport port: what an answer does (20_memory.md R36, R39), who issues a transaction and what the port's
history takes up (R40); and that no step stops the block (R28).
-/

namespace Sys2Proof.Machine

/-! ## The transport's answer (R36, R39) -/

/-- With a transaction outstanding an answer is taken. -/
theorem step_answer {s : State} {x : Transaction} (hp : s.pending = some x) {a : Answer} {r : List Turn}
    (hturns : s.turns = .answer a :: r) : step s = .next (State.answered { s with turns := r } a) := by
  rw [step_turn s _ r hturns, takeTurn, answerTurn, if_pos (by rw [hp]; rfl)]

theorem record_of_pending {s : State} {x : Transaction} (hp : s.pending = some x) (res : TxResult) :
    s.record res = { s with pending := none, bus := s.bus ++ [⟨x, res⟩] } := by
  rw [State.record, hp]

/-- Settles O18: either answer is recorded, and a FAIL raises TRANSPORT. -/
theorem transportAnswerEndsOrContinues : Obligations.TransportAnswerEndsOrContinues := by
  intro s x r hp
  have hrecord (res : TxResult) := record_of_pending (s := { s with turns := r }) hp res
  refine ⟨fun hturns => ?_, fun hturns => ?_⟩
  · rw [step_answer hp hturns, State.answered, hrecord]
    rfl
  · rw [step_answer hp hturns, State.answered, hrecord]

/-! ## No step stops the block (R28) -/

theorem engineTurn_next (s : State) : ∃ t, engineTurn s = .next t := by
  obtain ⟨-, h⟩ | ⟨as, -, -, -, h⟩ | ⟨i, -, h⟩ | ⟨e, -, -, -, -, h⟩ := engineTurn_cases s
  · exact ⟨_, h⟩
  · exact ⟨_, h⟩
  · exact ⟨_, h.trans (exec_eq i s)⟩
  · exact ⟨_, h⟩

theorem takeTurn_next (q : Turn) (s : State) : ∃ t, takeTurn q s = .next t := by
  cases q with
  | engine => exact engineTurn_next s
  | _ => exact ⟨_, rfl⟩

/-- Settles O45: the engine's turn is the only move that could answer anything else, and each command's meaning answers a
next state. -/
theorem everyStepAnswersANextState : Obligations.EveryStepAnswersANextState := by
  intro s
  obtain ⟨q, r, -, h⟩ | ⟨-, -, -, h⟩ | ⟨-, -, h⟩ := step_cases s
  · rw [h]; exact takeTurn_next q _
  · rw [h]; exact engineTurn_next s
  · exact ⟨_, h⟩

/-! ## The port's history (R40) -/

/-- The history takes up the outstanding transaction, or nothing. -/
def TakesUpOutstanding (s t : State) : Prop := t.bus = s.bus ∨ ∃ x res, s.pending = some x ∧ t.bus = s.bus ++ [⟨x, res⟩]

theorem TakesUpOutstanding.bus_grows {s t : State} (h : TakesUpOutstanding s t) : s.bus <+: t.bus := by
  obtain h | ⟨x, res, -, h⟩ := h
  · rw [h]
  · rw [h]; exact List.prefix_append _ _

theorem record_bus (s : State) (res : TxResult) : TakesUpOutstanding s (s.record res) := by
  cases hp : s.pending with
  | none => exact .inl (by rw [State.record, hp])
  | some x => exact .inr ⟨x, res, hp, by rw [record_of_pending hp]⟩

theorem dropHeld_bus (s : State) : s.dropHeld.bus = s.bus := by
  unfold State.dropHeld
  split
  · split <;> rfl
  · rfl

theorem resetInput_bus (s : State) : TakesUpOutstanding s s.resetInput := by
  have hbus : s.resetInput.bus = (s.record .abandoned).bus := dropHeld_bus _
  rw [TakesUpOutstanding, hbus]
  exact record_bus s .abandoned

theorem hostTurn_bus (s : State) : (hostTurn s).bus = s.bus := (hostTurn_keeps s).2.1

theorem answerTurn_bus (a : Answer) (s : State) : TakesUpOutstanding s (answerTurn a s) := by
  obtain ⟨-, -, -, -, -, -, -, hbus⟩ := answerTurn_keeps a s
  exact hbus

theorem startCommand_bus (i : Instr) (s : State) : (startCommand i s).bus = s.bus := by
  obtain ⟨c, h⟩ | ⟨-, -, -, h⟩ | ⟨-, -, h⟩ := startCommand_cases i s <;> rw [h] <;> rfl

theorem microAction_bus (as : List Action) (s : State) : (microAction as s).bus = s.bus := by
  cases as with
  | nil => rfl
  | cons a as =>
    cases a with
    | setBit p v => exact fbSetBit_bus s p v
    | _ => rfl

/-- One action issues a transaction at most; it ends none. -/
theorem microTurn_bus (s : State) : (microTurn s).bus = s.bus := by
  obtain ⟨-, h⟩ | ⟨as, -, -, -, h⟩ | ⟨i, -, h⟩ | ⟨e, -, -, -, -, h⟩ := microTurn_cases s
  · rw [h]
  · rw [h, microAction_bus]
  · rw [h, startCommand_bus]
  · rw [h, raise_bus]

theorem takeTurn_bus {q : Turn} (hq : q ≠ .engine) {s t : State} (h : takeTurn q s = .next t) :
    TakesUpOutstanding s t := by
  cases q with
  | host => cases h; exact .inl (hostTurn_bus s)
  | engine => exact absurd rfl hq
  | micro => cases h; exact .inl (microTurn_bus s)
  | answer a => cases h; exact answerTurn_bus a s
  | lateAnswer a => cases h; exact .inl rfl
  | reset => cases h; exact resetInput_bus s

theorem EngineAct.bus_grows {s t : State} (h : EngineAct s t) : s.bus <+: t.bus := by
  cases h with
  | setBit p v => rw [fbSetBit_bus]
  | record res => exact (record_bus s res).bus_grows
  | _ => exact List.prefix_refl _

theorem EngineActs.bus_grows {s t : State} (h : EngineActs s t) : s.bus <+: t.bus := by
  induction h with
  | refl => exact List.prefix_refl _
  | tail _ hact ih => exact ih.trans hact.bus_grows

theorem EngineMove.bus_grows {s t : State} (h : EngineMove s t) : s.bus <+: t.bus := by
  cases h with
  | nothing h => rw [h]
  | refuse c h => rw [h, raise_bus]
  | acts _ h => exact h.bus_grows
  | initBegins _ _ h => exact h.bus_grows

theorem AgentMove.bus_grows {s t : State} (h : AgentMove s t) : s.bus <+: t.bus := by
  cases h with
  | host h => rw [h, hostTurn_bus]
  | engine h => exact (engineTurn_move h).bus_grows
  | micro h => rw [h, microTurn_bus]
  | answer a h => rw [h]; exact (answerTurn_bus a s).bus_grows
  | lateAnswer h => rw [h]

theorem step_bus_grows {s t : State} (h : step s = .next t) : s.bus <+: t.bus := by
  obtain ⟨r, -, rfl⟩ | ⟨r, hmove⟩ := step_next_cases h
  · exact (resetInput_bus { s with turns := r }).bus_grows
  · exact hmove.bus_grows

/-! ## The outstanding transaction (R40) -/

/-- A move issues nothing: the outstanding transaction is as it was, or none. -/
def IssuesNothing (s t : State) : Prop := t.pending = s.pending ∨ t.pending = none

theorem regStore_issuesNothing (s : State) (g : HostReg) (v : Word) : IssuesNothing s (s.regStore g v) := by
  cases g with
  | cmd => exact .inr rfl
  | status =>
    rw [State.regStore, State.writeStatus]
    split <;> exact .inl rfl
  | _ => exact .inl rfl

theorem hostTurn_issuesNothing (s : State) : IssuesNothing s (hostTurn s) := by
  obtain ⟨-, h⟩ | ⟨op, ops, -, -, -, h⟩ | ⟨op, ops, -, -, h⟩ := hostTurn_cases s
  · exact .inl (by rw [h])
  · exact .inl (by rw [h])
  · rw [h]
    cases op with
    | wr k v => exact regStore_issuesNothing s (portReg s.cfg k) (portData s.cfg v)
    | rd k => exact .inl rfl
    | wait =>
      rw [State.hostPerform]
      obtain hw | hw := hostWaits_cases s (s.hostValue 1#9) <;> rw [hw] <;> exact .inl rfl

theorem answerTurn_issuesNothing (a : Answer) (s : State) : IssuesNothing s (answerTurn a s) := by
  unfold answerTurn
  split
  · cases a with
    | ack => exact .inr (record_pending s .ack)
    | fail => exact .inr rfl
  · exact .inl rfl

/-- With BUSY = 0, or a transaction outstanding, the engine does nothing. -/
theorem engineTurn_of_idle {s : State} (h : s.busy = false ∨ s.pending ≠ none) : engineTurn s = .next s := by
  rw [engineTurn, if_neg]
  obtain h | h := h <;> simp [h]

theorem microTurn_of_idle {s : State} (h : s.busy = false ∨ s.pending ≠ none) : microTurn s = s := by
  rw [microTurn, if_neg]
  obtain h | h := h <;> simp [h]

theorem takeTurn_issuesNothing {q : Turn} {s t : State}
    (hq : (q ≠ .engine ∧ q ≠ .micro) ∨ s.busy = false ∨ s.pending ≠ none) (h : takeTurn q s = .next t) :
    IssuesNothing s t := by
  cases q with
  | host => cases h; exact hostTurn_issuesNothing s
  | engine =>
    have hidle := hq.resolve_left fun hn => hn.1 rfl
    rw [takeTurn, engineTurn_of_idle hidle] at h
    cases h; exact .inl rfl
  | micro =>
    have hidle := hq.resolve_left fun hn => hn.2 rfl
    rw [takeTurn, microTurn_of_idle hidle] at h
    cases h; exact .inl rfl
  | answer a => cases h; exact answerTurn_issuesNothing a s
  | lateAnswer a => cases h; exact .inl rfl
  | reset => cases h; exact .inr rfl

theorem step_issuesNothing {s t : State} (hidle : s.busy = false ∨ s.pending ≠ none) (h : step s = .next t) :
    IssuesNothing s t := by
  obtain ⟨q, r, -, he⟩ | ⟨-, hb, hp, -⟩ | ⟨-, -, he⟩ := step_cases s
  · exact takeTurn_issuesNothing (s := { s with turns := r }) (.inr hidle) (he.symm.trans h)
  · simp [hb, hp] at hidle
  · rw [he] at h; cases h; exact hostTurn_issuesNothing s

/-- Settles O49: no agent takes a record back, a turn that is not the engine's takes up the outstanding transaction at
most, and a turn that is neither `engine` nor `micro`, or finds nothing to run, issues none. -/
theorem busHistoryOnlyGrows : Obligations.BusHistoryOnlyGrows := by
  intro s t hstep
  have named {q : Turn} {r : List Turn} (hturns : s.turns = q :: r) : takeTurn q { s with turns := r } = .next t := by
    rw [← step_turn s q r hturns, hstep]
  obtain ⟨more, hmore⟩ := step_bus_grows hstep
  exact ⟨⟨more, hmore.symm⟩, fun q r hturns hq => takeTurn_bus (s := { s with turns := r }) hq (named hturns),
    fun q r hturns hq hq' => takeTurn_issuesNothing (s := { s with turns := r }) (.inl ⟨hq, hq'⟩) (named hturns),
    fun hidle => step_issuesNothing hidle hstep⟩

end Sys2Proof.Machine
end

section
/-!
PROOFS. The granularities of the engine's moves agree (logs 1 and 2; 20_memory.md R36, R39, R40, R42): one action at a time
reaches the state of one move, and a command that waits for its answers reaches the state of one that has them at once.
-/

namespace Sys2Proof.Machine

/-! ## The order of moves -/

/-- The state with another order of moves. -/
def State.withTurns (s : State) (r : List Turn) : State := { s with turns := r }

theorem fbSetBit_withTurns (s : State) (r : List Turn) (p : Point) (v : Bool) :
    (s.withTurns r).fbSetBit p v = (s.fbSetBit p v).withTurns r := by
  unfold State.fbSetBit
  rw [show (s.withTurns r).inRange p = s.inRange p from rfl]
  split <;> rfl

theorem fbSetBit_plan (s : State) (as : List Action) (p : Point) (v : Bool) :
    (s.plan as).fbSetBit p v = (s.fbSetBit p v).plan as := by
  unfold State.fbSetBit
  rw [show (s.plan as).inRange p = s.inRange p from rfl]
  split <;> rfl

theorem readyActions_withTurns (i : Instr) (s : State) (r : List Turn) :
    readyActions i (s.withTurns r) = readyActions i s := by
  cases i <;> rfl

theorem plan_eq_self {s : State} {as : List Action} (h : s.todo = some as) : s.plan as = s := by
  rw [State.plan, ← h]

theorem acks_succ (n : Nat) : acks (n + 1) = .answer .ack :: acks n := List.replicate_succ

/-! ## The moves of a command that runs -/

theorem run_one {s t : State} (h : step s = .next t) : Host.Core.run core 1 s = .next t := run_succ 0 s t h

section
variable {s : State} (hb : s.busy = true) (hp : s.pending = none) (as : List Action) (r : List Turn)
include hb hp

/-- With the actions `as` left, the engine runs them. -/
theorem step_engine_plan :
    step ((s.plan as).withTurns (.engine :: r)) = .next (runActions as (s.withTurns r)) := by
  rw [step_turn _ .engine r rfl, takeTurn, engineTurn, if_pos (by simp [State.withTurns, hb, hp])]
  exact congrArg Host.Outcome.next (engineRun_plan (s.withTurns r) as)

/-- With the actions `as` left, the engine does the first of them. -/
theorem step_micro_plan :
    step ((s.plan as).withTurns (.micro :: r)) = .next (microAction as ((s.plan as).withTurns r)) := by
  rw [step_turn _ .micro r rfl, takeTurn, microTurn, if_pos (by simp [State.withTurns, hb, hp])]
  rfl

end

/-- The answer to the transaction just issued. -/
theorem step_answer_issued (s : State) (p : List Byte) (as : List Action) (x : Answer) (r : List Turn) :
    step ((s.withTurns (.answer x :: r)).issue p as) = .next (afterAnswer s p as x r) :=
  step_answer rfl rfl

/-- After an ACK the command has the other actions left. -/
theorem afterAnswer_ack_eq_plan {s : State} (hp : s.pending = none) (p : List Byte) (as : List Action) (r : List Turn) :
    afterAnswer s p as .ack r = ((s.sent [acked s.cfg p] r).plan as).withTurns r := by
  rw [afterAnswer_ack, ← hp]
  rfl

/-! ## One action at a time (log 2) -/

section
variable {a : Action} {s : State} {p : List Byte} (h : a.payload s = some p) (as : List Action)
include h

theorem microAction_send : microAction (a :: as) s = s.issue p as := by
  cases a <;> cases h <;> rfl

theorem microTurns_send : microTurns (a :: as) = .micro :: .answer .ack :: microTurns as := by
  cases a <;> cases h <;> rfl

theorem txCount_send : txCount (a :: as) = txCount as + 1 := by
  cases a <;> cases h <;> rfl

theorem runActions_send_acked (r : List Turn) :
    runActions (a :: as) (s.withTurns (.answer .ack :: r)) = runActions as (s.sent [acked s.cfg p] r) :=
  runActions_send_ack a as (s.withTurns (.answer .ack :: r)) p r h rfl

end

/-- The first action is a transaction: it is issued, and then answered ACK. -/
theorem run_microTurns_send {a : Action} {as : List Action} {s : State} {p : List Byte} (ha : a.payload s = some p)
    (hb : s.busy = true) (hp : s.pending = none) (n : Nat) (r : List Turn) :
    Host.Core.run core (n + 2) ((s.plan (a :: as)).withTurns (.micro :: .answer .ack :: r)) =
      Host.Core.run core n (((s.sent [acked s.cfg p] r).plan as).withTurns r) := by
  have hissue := step_micro_plan hb hp (a :: as) (.answer .ack :: r)
  rw [microAction_send (s := (s.plan (a :: as)).withTurns (.answer .ack :: r)) (p := p) ha] at hissue
  have hack := step_answer_issued s p as .ack r
  rw [afterAnswer_ack_eq_plan hp] at hack
  exact (run_succ _ _ _ hissue).trans (run_succ _ _ _ hack)

/-- One action at a time, each transaction answered ACK as soon as it is issued. -/
theorem run_microTurns (as : List Action) (s : State) (rest : List Turn) (hb : s.busy = true) (hp : s.pending = none) :
    Host.Core.run core (microTurns as).length ((s.plan as).withTurns (microTurns as ++ rest)) =
      .next (runActions as (s.withTurns (acks (txCount as) ++ rest))) := by
  induction as generalizing s with
  | nil => exact run_one (step_micro_plan hb hp [] rest)
  | cons a as ih =>
    have send : ∀ p, a.payload s = some p →
        Host.Core.run core (microTurns (a :: as)).length
            ((s.plan (a :: as)).withTurns (microTurns (a :: as) ++ rest)) =
          .next (runActions (a :: as) (s.withTurns (acks (txCount (a :: as)) ++ rest))) := by
      intro p ha
      rw [microTurns_send ha, txCount_send ha, acks_succ]
      simp only [List.cons_append, runActions_send_acked ha]
      exact (run_microTurns_send ha hb hp _ _).trans (ih (s.sent [acked s.cfg p] s.turns) hb hp)
    cases a with
    | zeroFill => exact (run_succ _ _ _ (step_micro_plan hb hp _ _)).trans (ih s.zeroFill hb hp)
    | setBit q v =>
      have hstep := step_micro_plan hb hp (.setBit q v :: as) (microTurns as ++ rest)
      rw [microAction, fbSetBit_withTurns, fbSetBit_plan] at hstep
      rw [runActions, fbSetBit_withTurns]
      exact (run_succ _ _ _ hstep).trans
        (ih (s.fbSetBit q v) ((fbSetBit_busy s q v).trans hb) ((fbSetBit_pending s q v).trans hp))
    | sendCmd b => exact send _ rfl
    | sendData => exact send _ rfl
    | ready => exact run_one (step_micro_plan hb hp _ rest)

/-- Settles O51: both orders of moves end in the run of the actions with the same answers. -/
theorem oneActionAtATimeEqualsOneMove : Obligations.OneActionAtATimeEqualsOneMove := by
  intro as s rest hb htodo hp
  have hmicro := run_microTurns as s rest hb hp
  have hengine := run_one (step_engine_plan hb hp as (acks (txCount as) ++ rest))
  rw [plan_eq_self htodo] at hmicro hengine
  exact hmicro.trans hengine.symm

/-! ## Waiting and going on (log 1) -/

/-- The engine's move after the answer: the same as if the answer had come at once. -/
theorem step_engine_afterAnswer {s : State} (hb : s.busy = true) (p : List Byte) (as : List Action) (x : Answer)
    (r : List Turn) :
    step (afterAnswer s p as x (.engine :: r)) =
      .next (transmit (s.withTurns (.answer x :: r)) p as (runActions as)) := by
  rw [step_turn _ .engine r (by cases x <;> rfl)]
  cases x with
  | ack =>
    rw [takeTurn, engineTurn, if_pos (by simp [afterAnswer_ack, hb])]
    rfl
  | fail => exact engineTurn_of_idle (.inl rfl)

/-- A transaction whose answer the engine waits for: a move that finds no answer, the answer, and the move that goes on
reach what a prompt answer does. -/
theorem run_waits_for_answer {a : Action} {as : List Action} {s : State} {p : List Byte} (ha : a.payload s = some p)
    (hb : s.busy = true) (x : Answer) (n : Nat) (r : List Turn) :
    Host.Core.run core (n + 3) (runActions (a :: as) (s.withTurns (.engine :: .answer x :: .engine :: r))) =
      Host.Core.run core n (runActions (a :: as) (s.withTurns (.answer x :: r))) := by
  have hissue : runActions (a :: as) (s.withTurns (.engine :: .answer x :: .engine :: r)) =
      (s.withTurns (.engine :: .answer x :: .engine :: r)).issue p as :=
    runActions_send_wait a as (s.withTurns (.engine :: .answer x :: .engine :: r)) p ha nofun
  have hidle : step ((s.withTurns (.engine :: .answer x :: .engine :: r)).issue p as) =
      .next ((s.withTurns (.answer x :: .engine :: r)).issue p as) := by
    rw [step_turn _ .engine _ rfl]
    exact engineTurn_of_idle (.inr nofun)
  rw [hissue, runActions_send a as (s.withTurns (.answer x :: r)) p ha]
  exact ((run_succ _ _ _ hidle).trans (run_succ _ _ _ (step_answer_issued s p as x _))).trans
    (run_succ _ _ _ (step_engine_afterAnswer hb p as x r))

/-- A run of actions that waits for each of its answers, `n` times ACK and then `x`. -/
theorem run_waitTurns (as : List Action) (s : State) (n : Nat) (x : Answer) (rest : List Turn) (hb : s.busy = true)
    (hn : n < txCount as) :
    Host.Core.run core (3 * (n + 1)) (runActions as (s.withTurns (waitTurns (List.replicate n .ack ++ [x]) ++ rest))) =
      .next (runActions as (s.withTurns (acks n ++ .answer x :: rest))) := by
  induction as generalizing s n with
  | nil => exact absurd hn (Nat.not_lt_zero n)
  | cons a as ih =>
    have send : ∀ p, a.payload s = some p →
        Host.Core.run core (3 * (n + 1))
            (runActions (a :: as) (s.withTurns (waitTurns (List.replicate n .ack ++ [x]) ++ rest))) =
          .next (runActions (a :: as) (s.withTurns (acks n ++ .answer x :: rest))) := by
      intro p ha
      cases n with
      | zero => exact run_waits_for_answer ha hb x 0 rest
      | succ n =>
        rw [txCount_send ha] at hn
        rw [acks_succ, List.cons_append, runActions_send_acked ha]
        refine (run_waits_for_answer ha hb .ack (3 * (n + 1))
          (waitTurns (List.replicate n .ack ++ [x]) ++ rest)).trans ?_
        rw [runActions_send_acked ha]
        exact ih (s.sent [acked s.cfg p] s.turns) n hb (by omega)
    cases a with
    | zeroFill => exact ih s.zeroFill n hb hn
    | setBit q v =>
      rw [runActions, runActions, fbSetBit_withTurns, fbSetBit_withTurns]
      exact ih (s.fbSetBit q v) n ((fbSetBit_busy s q v).trans hb) hn
    | sendCmd b => exact send _ rfl
    | sendData => exact send _ rfl
    | ready => exact absurd hn (Nat.not_lt_zero n)

/-- A command that begins: whatever the order of moves, the engine's first move runs the actions it starts with. -/
theorem step_engine_begins {s : State} {i : Instr} {as : List Action} (hacc : s.Accepted i)
    (has : (startCommand i s).todo = some as) :
    ∃ u : State, u.busy = true ∧
      ∀ r, step (s.withTurns (.engine :: r)) = .next (runActions as (u.withTurns r)) := by
  have ⟨hb, _⟩ := hacc
  obtain ⟨c, h⟩ | ⟨rfl, hr, hg, h⟩ | ⟨hi, hr, h⟩ := startCommand_cases i s
  · rw [h] at has; cases has
  · rw [h] at has
    cases has
    exact ⟨initBegun s, hb, fun r => (step_engine_accepted hacc r).trans (exec_init_legal (s.withTurns r) hr hg)⟩
  · rw [h] at has
    cases has
    refine ⟨s, hb, fun r => (step_engine_accepted hacc r).trans ?_⟩
    rw [← readyActions_withTurns i s r]
    exact exec_ready i hi (s.withTurns r) hr

/-- Settles O53: the first move runs the actions up to the first answer that is awaited, and each further answer is waited
for in three moves (`run_waitTurns`). -/
theorem waitingCommandGoesOn : Obligations.WaitingCommandGoesOn := by
  intro s as n a rest hb hp hruns hn
  obtain ⟨u, hu, hfirst⟩ : ∃ u : State, u.busy = true ∧
      ∀ r, step (s.withTurns (.engine :: r)) = .next (runActions as (u.withTurns r)) := by
    obtain htodo | ⟨i, hacc, has⟩ := hruns
    · have hstep := step_engine_plan hb hp as
      rw [plan_eq_self htodo] at hstep
      exact ⟨s, hb, hstep⟩
    · exact step_engine_begins hacc has
  have hwait := (run_succ (3 * (n + 1)) _ _ (hfirst _)).trans (run_waitTurns as u n a rest hu hn)
  exact hwait.trans (run_one (hfirst _)).symm

end Sys2Proof.Machine
end

section
/-!
PROOFS. The decoder and the encoder of CMD values agree (30_encoding.md R46, R47), and what becomes of a value that is
no command (R48).
-/

namespace Sys2Proof.Machine

/-! ## The opcode map -/

/-- Every row compares the whole word with the encoding of its command (30_encoding.md R47). -/
theorem opcodeMap_row : ∀ r ∈ opcodeMap, r.mask = 0xFFFFFFFF#32 ∧ r.value = encode r.instr := by decide

theorem hit_iff_of_mem {r : OpcodeRow} (hr : r ∈ opcodeMap) (v : Word) : r.hit v = true ↔ v = encode r.instr := by
  obtain ⟨hmask, hvalue⟩ := opcodeMap_row r hr
  rw [OpcodeRow.hit, beq_iff_eq, hmask, hvalue, show 0xFFFFFFFF#32 = BitVec.allOnes 32 from rfl, BitVec.and_allOnes]

/-- The row the decoder finds is that of the word's own command. -/
theorem eq_encode_of_find? {v : Word} {r : OpcodeRow} (h : opcodeMap.find? (·.hit v) = some r) :
    v = encode r.instr :=
  (hit_iff_of_mem (List.mem_of_find?_eq_some h) v).mp (List.find?_some (p := fun r : OpcodeRow => r.hit v) h)

theorem decode_encode (i : Instr) : decode (encode i) = .ok i := by cases i <;> rfl

/-- A word decodes to a command exactly when it is the command's encoding. -/
theorem decode_eq_ok_iff (v : Word) (i : Instr) : decode v = .ok i ↔ v = encode i := by
  refine ⟨fun h => ?_, fun h => h ▸ decode_encode i⟩
  unfold decode at h
  split at h
  next r hfind =>
    cases h
    exact eq_encode_of_find? hfind
  next => cases h

/-- A word that is no command's encoding is ILLEGAL. -/
theorem decode_eq_error_iff (v : Word) : decode v = .error (illegalReason v) ↔ ∀ i, v ≠ encode i := by
  refine ⟨fun h i hi => ?_, fun h => ?_⟩
  · rw [(decode_eq_ok_iff v i).mpr hi] at h
    cases h
  · unfold decode
    split
    next r hfind => exact absurd (eq_encode_of_find? hfind) (h r.instr)
    next => rfl

theorem tableWord_toNat (v : Word) : tableWord 32 v.toNat = v := by
  rw [tableWord, Nat.mod_eq_of_lt v.isLt, BitVec.ofNat_toNat, BitVec.setWidth_eq]

theorem decodeTableWord_eq_some_iff (v : Word) (i : Instr) : decodeTableWord 32 v.toNat = some i ↔ v = encode i := by
  rw [← decode_eq_ok_iff, decodeTableWord, tableWord_toNat]
  cases decode v <;> simp

/-! ## The latched opcode (10_state.md R23) -/

/-- The laws of each command's opcode and word, for every command. -/
theorem opcode_laws : ∀ i : Instr, Laws.Opcode.Statement i
  | .init => Laws.Opcode.init
  | .clear => Laws.Opcode.clear
  | .flush => Laws.Opcode.flush
  | .setPixel => Laws.Opcode.setPixel
  | .drawLine => Laws.Opcode.drawLine
  | .contrast => Laws.Opcode.contrast
  | .invert => Laws.Opcode.invert
  | .powerOn => Laws.Opcode.powerOn
  | .powerOff => Laws.Opcode.powerOff

theorem reservedZero_encode (i : Instr) : reservedZero (encode i) = true :=
  have ⟨_, _, _, hhigh⟩ := opcode_laws i
  hhigh

theorem extractLsb'_encode (i : Instr) : (encode i).extractLsb' 0 8 = i.opcode :=
  have ⟨_, _, hlow, _⟩ := opcode_laws i
  hlow

theorem reservedZero_iff (v : Word) : reservedZero v = true ↔ v.extractLsb' 8 24 = 0#24 := beq_iff_eq

/-- With CMD[31:8] = 0 the word is its low byte, zero-extended. -/
theorem setWidth_extractLsb'_of_reservedZero {v : Word} (h : reservedZero v = true) :
    (v.extractLsb' 0 8).setWidth 32 = v := by
  have hhigh : v.toNat >>> 8 % 2 ^ 24 = 0 := by
    rw [← BitVec.extractLsb'_toNat, (reservedZero_iff v).mp h]
    rfl
  have hv : v.toNat < 2 ^ 32 := v.isLt
  apply BitVec.eq_of_toNat_eq
  rw [BitVec.toNat_setWidth, BitVec.extractLsb'_toNat]
  omega

/-- Decoding from the latched opcode and the record of the upper bits loses nothing. -/
theorem decodeLatched_latches (v : Word) : decodeLatched (reservedZero v) (v.extractLsb' 0 8) = decode v := by
  cases h : reservedZero v with
  | true => rw [decodeLatched, if_pos rfl, setWidth_extractLsb'_of_reservedZero h]
  | false =>
    have hne : ∀ i, v ≠ encode i := by
      rintro i rfl
      rw [reservedZero_encode] at h
      cases h
    rw [(decode_eq_error_iff v).mpr hne, illegalReason, h]
    rfl

/-- Settles O2: the row that matches a word is the one whose value is the word (`decode_eq_ok_iff`), and the latches
keep the whole word (`decodeLatched_latches`). -/
theorem decodeIsExactlyEncode : Obligations.DecodeIsExactlyEncode :=
  ⟨opcodeMap_row, fun v i => ⟨decode_eq_ok_iff v i, decode_eq_ok_iff v i, decodeTableWord_eq_some_iff v i,
    decodeLatched_latches v⟩⟩

/-- Settles O1: each of the nine words is the encoding of the command the map names. -/
theorem opcodeMapDecodesNineCommands : Obligations.OpcodeMapDecodesNineCommands :=
  ⟨decode_encode .init, decode_encode .clear, decode_encode .flush, decode_encode .setPixel, decode_encode .drawLine,
    decode_encode .contrast, decode_encode .invert, decode_encode .powerOn, decode_encode .powerOff⟩

/-! ## ILLEGAL values (30_encoding.md R48) -/

theorem opcodeLegal_iff (op : Byte) : opcodeLegal op = true ↔ ¬ (op = 0#8 ∨ 0x0A ≤ op.toNat) := by
  rw [opcodeLegal, Bool.and_eq_true, decide_eq_true_iff, decide_eq_true_iff]
  bv_omega

/-- The opcodes 0x01 to 0x09 are the commands'. -/
theorem exists_opcode_eq {op : Byte} (hop : opcodeLegal op = true) : ∃ i : Instr, i.opcode = op := by
  have hmem : op ∈ allInstrs.map Instr.opcode := by
    revert op
    decide
  obtain ⟨i, -, hi⟩ := List.mem_map.mp hmem
  exact ⟨i, hi⟩

/-- A value is ILLEGAL by R48 exactly when it is no command's encoding. -/
theorem illegal_iff (v : Word) :
    (v.extractLsb' 8 24 ≠ 0#24 ∨ v.extractLsb' 0 8 = 0#8 ∨ 0x0A ≤ (v.extractLsb' 0 8).toNat) ↔
      ∀ i, v ≠ encode i := by
  constructor
  · rintro hillegal i rfl
    have ⟨_, hop, _, _⟩ := opcode_laws i
    rw [extractLsb'_encode] at hillegal
    exact hillegal.elim (absurd ((reservedZero_iff _).mp (reservedZero_encode i))) ((opcodeLegal_iff _).mp hop)
  · intro hne
    by_contra hlegal
    obtain ⟨hhigh, hop⟩ := not_or.mp hlegal
    obtain ⟨i, hi⟩ := exists_opcode_eq ((opcodeLegal_iff _).mpr hop)
    have hv := setWidth_extractLsb'_of_reservedZero ((reservedZero_iff v).mpr (not_not.mp hhigh))
    exact hne i (by rw [encode, hi, hv])

theorem accepted_accept (s : State) (i : Instr) : (s.accept (encode i)).Accepted i :=
  ⟨rfl, rfl, rfl, (decodeLatched_latches (encode i)).trans (decode_encode i)⟩

/-- An accepted word that decodes to no command ends with ILLEGAL (60_exceptions.md R88). -/
theorem step_engine_illegal {s : State} (hb : s.busy = true) (htodo : s.todo = none) (hp : s.pending = none)
    {e : IllegalCmd} (hd : decodeLatched s.lcmdHigh0 s.lcmd = .error e) (q : List Turn) :
    step { s with turns := .engine :: q } = .next (State.refusedWith { s with turns := q } 2#4) := by
  rw [step_turn _ .engine q rfl, takeTurn, engineTurn]
  simp only [hb, htodo, hp, hd]
  rfl

/-- Settles O3: acceptance takes any value, and whether the engine then refuses it is whether it is a command's encoding
(`illegal_iff`). -/
theorem illegalCommandEndsWithIllegal : Obligations.IllegalCommandEndsWithIllegal := by
  intro s v r
  refine ⟨fun ops q hport hb hprog hturns => step_host_wr_taken hport hturns (.inl hb) hprog, rfl,
    fun hillegal => ?_, fun hlegal => ?_⟩
  · have hd := (decode_eq_error_iff v).mpr ((illegal_iff v).mp hillegal)
    exact step_engine_illegal rfl rfl rfl ((decodeLatched_latches v).trans hd) r
  · rw [illegal_iff] at hlegal
    push Not at hlegal
    obtain ⟨i, rfl⟩ := hlegal
    exact ⟨i, rfl, accepted_accept s i⟩

end Sys2Proof.Machine
end

section
/-!
PROOFS. The operands of the commands: their values (30_encoding.md R49), and that the operand bits a command does not
name never change what it does (R50).
-/

namespace Sys2Proof.Machine

/-! ## The fields of an argument word (30_encoding.md R49) -/

theorem extractLsb'_lo16_toNat (v : Word) : (v.extractLsb' 0 16).toNat = v.toNat % 65536 :=
  BitVec.extractLsb'_toNat 0 16 v

theorem extractLsb'_hi16_toNat (v : Word) : (v.extractLsb' 16 16).toNat = v.toNat / 65536 := by
  have hv : v.toNat < 2 ^ 32 := v.isLt
  rw [BitVec.extractLsb'_toNat]
  omega

theorem extractLsb'_lo8_toNat (v : Word) : (v.extractLsb' 0 8).toNat = v.toNat % 256 :=
  BitVec.extractLsb'_toNat 0 8 v

/-- With COORD_BITS = 16 a coordinate is the field's two's complement number. -/
theorem coordinate_eq_ite {c : Config} (hc : c.coordBits = 16) (field : BitVec 16) :
    coordinate c field =
      if field.toNat < 32768 then (field.toNat : Int) else (field.toNat : Int) - 65536 := by
  rw [coordinate_standard c hc, BitVec.toInt_eq_toNat_cond]
  split <;> split <;> omega

theorem wordPoint_x {c : Config} (hc : c.coordBits = 16) (v : Word) :
    (wordPoint c v).x =
      if v.toNat % 65536 < 32768 then (v.toNat % 65536 : Int) else (v.toNat % 65536 : Int) - 65536 := by
  refine (coordinate_eq_ite hc _).trans ?_
  rw [extractLsb'_lo16_toNat]
  rfl

theorem wordPoint_y {c : Config} (hc : c.coordBits = 16) (v : Word) :
    (wordPoint c v).y =
      if v.toNat / 65536 < 32768 then (v.toNat / 65536 : Int) else (v.toNat / 65536 : Int) - 65536 := by
  refine (coordinate_eq_ite hc _).trans ?_
  rw [extractLsb'_hi16_toNat]
  rfl

theorem width_toNat (s : State) : s.width.toNat = s.larg0.toNat % 65536 := extractLsb'_lo16_toNat s.larg0

theorem height_toNat (s : State) : s.height.toNat = s.larg0.toNat / 65536 := extractLsb'_hi16_toNat s.larg0

theorem extIn_iff (s : State) : s.extIn = true ↔ s.larg2.toNat % 2 = 1 := by
  rw [State.extIn, ← BitVec.testBit_toNat, Nat.testBit_zero, decide_eq_true_iff]

theorem level_toNat (s : State) : s.level.toNat = s.larg2.toNat % 256 := extractLsb'_lo8_toNat s.larg2

theorem value_iff (s : State) : s.value = true ↔ s.larg2.toNat % 256 ≠ 0 := by
  rw [State.value, bne_iff_ne, ← extractLsb'_lo8_toNat, Ne, ← BitVec.toNat_inj]
  rfl

theorem flag_toNat (s : State) : s.flag.toNat = s.larg2.toNat % 2 := by
  rw [State.flag, BitVec.toNat_setWidth, BitVec.extractLsb'_toNat]
  omega

/-- Settles O13, operand by operand. -/
theorem operandValues : Obligations.OperandValues := by
  intro s hc
  exact ⟨width_toNat s, height_toNat s, extIn_iff s, wordPoint_x hc _, wordPoint_y hc _, wordPoint_x hc _,
    wordPoint_y hc _, value_iff s, level_toNat s, flag_toNat s⟩

/-! ## The engine does not read the latched arguments once a command has begun -/

section
variable (s : State) (a0 a1 a2 : Word)

theorem fbSetBit_withLargs (p : Point) (v : Bool) :
    (s.withLargs a0 a1 a2).fbSetBit p v = (s.fbSetBit p v).withLargs a0 a1 a2 := by
  unfold State.fbSetBit
  rw [show (s.withLargs a0 a1 a2).inRange p = s.inRange p from rfl]
  split <;> rfl

theorem transmit_withLargs (p : List Byte) (rest : List Action) {k : State → State}
    (hk : ∀ u : State, k (u.withLargs a0 a1 a2) = (k u).withLargs a0 a1 a2) :
    transmit (s.withLargs a0 a1 a2) p rest k = (transmit s p rest k).withLargs a0 a1 a2 := by
  unfold transmit
  rw [show (s.withLargs a0 a1 a2).turns = s.turns from rfl]
  split
  next r _ => exact hk (afterAnswer s p rest .ack r)
  · rfl
  · rfl

theorem runActions_withLargs (as : List Action) :
    runActions as (s.withLargs a0 a1 a2) = (runActions as s).withLargs a0 a1 a2 := by
  induction as generalizing s with
  | nil => rfl
  | cons a as ih =>
    cases a with
    | zeroFill => exact ih s.zeroFill
    | setBit p v => rw [runActions, fbSetBit_withLargs, ih, runActions]
    | sendCmd b => exact transmit_withLargs s a0 a1 a2 _ as ih
    | sendData => exact transmit_withLargs s a0 a1 a2 _ as ih
    | ready => rfl

theorem engineRun_withLargs : engineRun (s.withLargs a0 a1 a2) = (engineRun s).withLargs a0 a1 a2 := by
  unfold engineRun
  rw [show (s.withLargs a0 a1 a2).todo = s.todo from rfl]
  split
  · exact runActions_withLargs s a0 a1 a2 _
  · rfl

end

/-! ## Operand bits that a command does not name (30_encoding.md R50) -/

section
variable {s : State} {a0 a1 a2 : Word}

/-- Latched arguments that do not change how the command starts do not change what it does. -/
theorem exec_withLargs_of_start {i : Instr}
    (hstart : startCommand i (s.withLargs a0 a1 a2) = (startCommand i s).withLargs a0 a1 a2) :
    exec i (s.withLargs a0 a1 a2) = mapNext (·.withLargs a0 a1 a2) (exec i s) := by
  rw [exec_eq, exec_eq, hstart, engineRun_withLargs]
  rfl

/-- A command other than INIT reads the latched arguments in the list of its actions only. -/
theorem exec_withLargs_of_readyActions {i : Instr} (hi : i ≠ .init)
    (hacts : readyActions i (s.withLargs a0 a1 a2) = readyActions i s) :
    exec i (s.withLargs a0 a1 a2) = mapNext (·.withLargs a0 a1 a2) (exec i s) := by
  apply exec_withLargs_of_start
  cases hr : s.ready with
  | false => rw [startCommand_notReady i hi s hr, startCommand_notReady i hi (s.withLargs a0 a1 a2) hr]; rfl
  | true => rw [startCommand_ready i hi s hr, startCommand_ready i hi (s.withLargs a0 a1 a2) hr, hacts]; rfl

/-- INIT reads WIDTH, HEIGHT and EXT. -/
theorem startInit_withLargs (hext : (s.withLargs s.larg0 a1 a2).extIn = s.extIn) :
    startInit (s.withLargs s.larg0 a1 a2) = (startInit s).withLargs s.larg0 a1 a2 := by
  cases hr : s.ready with
  | true => rw [startInit_ready s hr, startInit_ready (s.withLargs s.larg0 a1 a2) hr]; rfl
  | false =>
    cases hg : geometryLegal s.cfg s.width.toNat s.height.toNat with
    | false => rw [startInit_badGeometry s hr hg, startInit_badGeometry (s.withLargs s.larg0 a1 a2) hr hg]; rfl
    | true =>
      rw [startInit_legal s hr hg, startInit_legal (s.withLargs s.larg0 a1 a2) hr hg, initBegun, initBegun, hext]
      rfl

theorem extIn_withLargs (h : a2.toNat % 2 = s.larg2.toNat % 2) : (s.withLargs a0 a1 a2).extIn = s.extIn := by
  rw [Bool.eq_iff_iff, extIn_iff, extIn_iff, ← h]
  rfl

theorem flag_withLargs (h : a2.toNat % 2 = s.larg2.toNat % 2) : (s.withLargs a0 a1 a2).flag = s.flag := by
  rw [← BitVec.toNat_inj, flag_toNat, flag_toNat, ← h]
  rfl

theorem level_withLargs (h : a2.toNat % 256 = s.larg2.toNat % 256) : (s.withLargs a0 a1 a2).level = s.level := by
  rw [← BitVec.toNat_inj, level_toNat, level_toNat, ← h]
  rfl

theorem value_withLargs (h : a2.toNat % 256 = 0 ↔ s.larg2.toNat % 256 = 0) :
    (s.withLargs a0 a1 a2).value = s.value := by
  rw [Bool.eq_iff_iff, value_iff, value_iff]
  exact not_congr h

end

/-- Settles O14: what a command does depends on the latched arguments through its start, and there through the operands
R49 names. -/
theorem unnamedOperandBitsAreIgnored : Obligations.UnnamedOperandBitsAreIgnored := by
  intro s a0 a1 a2
  refine ⟨?_, fun hlevel => ?_, fun hflag => ?_, ?_, ?_, ?_⟩
  · rintro i (rfl | rfl | rfl | rfl) <;> exact exec_withLargs_of_readyActions nofun rfl
  · refine exec_withLargs_of_readyActions nofun ?_
    rw [readyActions, level_withLargs hlevel]
    rfl
  · refine exec_withLargs_of_readyActions nofun ?_
    rw [readyActions, flag_withLargs hflag]
    rfl
  · rintro rfl hvalue
    refine exec_withLargs_of_readyActions nofun ?_
    rw [readyActions, value_withLargs hvalue]
    rfl
  · rintro rfl rfl hvalue
    refine exec_withLargs_of_readyActions nofun ?_
    rw [readyActions, value_withLargs hvalue]
    rfl
  · rintro rfl hext
    exact exec_withLargs_of_start (startInit_withLargs (extIn_withLargs hext))

end Sys2Proof.Machine
end

section
/-!
PROOFS. The controller byte strings with the default table (30_encoding.md R53 to R56, 41_clear_flush.md R67).
-/

namespace Sys2Proof.Machine

/-- Settles O35: `toByte` is the number modulo 256, and the other bytes are the table's. -/
theorem initSequenceBytes : Obligations.InitSequenceBytes := by
  intro w h ext _
  have hbyte : toByte (h - 1) = BitVec.ofNat 8 ((h - 1) % 256) := by
    apply BitVec.eq_of_toNat_eq
    rw [toByte, BitVec.toNat_ofNat, BitVec.toNat_ofNat, Nat.mod_mod]
  rw [initSeq, hbyte]
  rfl

/-- Settles O36: the three computed bytes are below 256, so none is reduced. -/
theorem flushWindowBytes : Obligations.FlushWindowBytes := by
  intro w h hw hmaxW hh hmaxH _
  have hc1 : w - 1 + colOffset w ≤ 127 := by
    unfold colOffset
    split <;> omega
  refine ⟨_, _, _, rfl, toByte_toNat ?_, toByte_toNat (by omega), ?_, toByte_toNat (by omega)⟩
  · unfold colOffset
    split <;> decide
  · rw [toByte_toNat (by omega)]
    exact hc1

end Sys2Proof.Machine
end

section
/-!
PROOFS. The host's program (30_encoding.md R57): `wait`, and the accesses of the pseudo-instructions on an idle block.
-/

namespace Sys2Proof.Machine

/-! ## wait -/

theorem hostPerform_wait {s : State} (hport : s.cfg.StandardPort) : s.hostPerform .wait = s.hostWaits s.status := by
  rw [State.hostPerform, hostValue_standard hport]
  rfl

theorem hostWaits_of_busy {s : State} (hb : s.busy = true) : s.hostWaits s.status = s.hostReads s.status := by
  rw [State.hostWaits, if_pos ((status_busy s).trans hb)]

theorem hostWaits_of_idle {s : State} (hb : s.busy = false) :
    s.hostWaits s.status = (s.hostReads s.status).hostAdvance := by
  rw [State.hostWaits, if_neg (by rw [status_busy, hb]; exact Bool.false_ne_true)]

/-- Settles O55: `wait` is never held, and bit 0 of the STATUS it reads is BUSY. -/
theorem hostWaitPollsStatus : Obligations.HostWaitPollsStatus := by
  intro s ops r hport hprog hturns
  have hstep : step s = .next ((s.hostWaits s.status).withTurns r) := by
    rw [step_host s r .wait ops hturns hprog, HostOp.holdable, Bool.and_false, hostPerform_wait hport]
    rfl
  refine ⟨fun hb => ?_, fun hb => ?_⟩
  · rw [hstep, hostWaits_of_busy hb]
    rfl
  · rw [hstep, hostWaits_of_idle hb, State.hostAdvance, hostReads_hostProg, hprog]
    rfl

/-! ## The accesses of an idle block -/

/-- The block is idle and `turns` names no agent, so that each step is the host's (log 13); the port is as wide as this
hardware's (log 22). -/
structure State.HostMoves (s : State) : Prop where
  port : s.cfg.StandardPort
  idle : s.busy = false
  unnamed : s.turns = []

theorem regStore_withTurns (s : State) (g : HostReg) (v : Word) (r : List Turn) :
    (s.withTurns r).regStore g v = (s.regStore g v).withTurns r := by
  cases g with
  | status =>
    simp only [State.regStore, State.writeStatus]
    split <;> rfl
  | _ => rfl

section
variable {s : State} {v : Word} {ops : List HostOp}

theorem State.HostMoves.withTurns_nil (h : s.HostMoves) : s.withTurns [] = s := by
  rw [State.withTurns, ← h.unnamed]

/-- The step is the one of a named turn of the host. -/
theorem State.HostMoves.step_eq_step_host (h : s.HostMoves) : step s = step (s.withTurns [.host]) := by
  rw [step_turn (s.withTurns [.host]) .host [] rfl]
  change step s = .next (hostTurn (s.withTurns []))
  rw [h.withTurns_nil, step, h.unnamed]
  simp [idleTurn, h.idle]

theorem State.HostMoves.step_wr (h : s.HostMoves) {k : WordIndex} (hprog : s.hostProg = .wr k v :: ops) :
    step s = .next { s.regStore (hostReg k) v with hostProg := ops, held := false } := by
  have hunnamed : s.regStore (hostReg k) v = (s.regStore (hostReg k) v).withTurns [] := by
    rw [← regStore_withTurns, h.withTurns_nil]
  have hstep := step_host_wr_taken (s := s.withTurns [.host]) (r := []) h.port rfl (.inl h.idle) hprog
  rw [regStore_withTurns] at hstep
  rw [h.step_eq_step_host, hstep, hunnamed]
  rfl

/-- A write of an operand: the run goes on from the state with the register written. -/
theorem State.HostMoves.run_wr (h : s.HostMoves) {k : WordIndex} (hprog : s.hostProg = .wr k v :: ops) (n : Nat) :
    Host.Core.run core (n + 1) s =
      Host.Core.run core n { s.regStore (hostReg k) v with hostProg := ops, held := false } :=
  run_succ n _ _ (h.step_wr hprog)

end

/-! ## The accesses that submit a command -/

/-- The command is accepted with these words latched, the parameters are `c`, and the host's program has ended. -/
structure State.SubmittedWith (t : State) (i : Instr) (c : Config) (l0 l1 l2 : Word) : Prop where
  accepted : t.Accepted i
  cfg : t.cfg = c
  larg0 : t.larg0 = l0
  larg1 : t.larg1 = l1
  larg2 : t.larg2 = l2
  prog : t.hostProg = []

section
variable {s : State} {i : Instr} {v0 v1 v2 : Word}

theorem State.HostMoves.submit (h : s.HostMoves) (hprog : s.hostProg = [wrCmd i]) :
    ∃ t, Host.Core.run core 1 s = .next t ∧ t.SubmittedWith i s.cfg s.arg0 s.arg1 s.arg2 :=
  ⟨_, run_one (h.step_wr hprog), accepted_accept s i, rfl, rfl, rfl, rfl, rfl⟩

theorem State.HostMoves.submit_arg2 (h : s.HostMoves) (hprog : s.hostProg = [.wr (wordAt 0x010) v2, wrCmd i]) :
    ∃ t, Host.Core.run core 2 s = .next t ∧ t.SubmittedWith i s.cfg s.arg0 s.arg1 v2 := by
  have hwritten : State.HostMoves { s with arg2 := v2, hostProg := [wrCmd i], held := false } :=
    ⟨h.port, h.idle, h.unnamed⟩
  obtain ⟨t, hrun, hsub⟩ := hwritten.submit rfl
  exact ⟨t, (h.run_wr hprog 1).trans hrun, hsub⟩

theorem State.HostMoves.submit_arg0_arg2 (h : s.HostMoves)
    (hprog : s.hostProg = [.wr (wordAt 0x008) v0, .wr (wordAt 0x010) v2, wrCmd i]) :
    ∃ t, Host.Core.run core 3 s = .next t ∧ t.SubmittedWith i s.cfg v0 s.arg1 v2 := by
  have hwritten : State.HostMoves
      { s with arg0 := v0, hostProg := [.wr (wordAt 0x010) v2, wrCmd i], held := false } :=
    ⟨h.port, h.idle, h.unnamed⟩
  obtain ⟨t, hrun, hsub⟩ := hwritten.submit_arg2 rfl
  exact ⟨t, (h.run_wr hprog 2).trans hrun, hsub⟩

theorem State.HostMoves.submit_arg1_arg2 (h : s.HostMoves)
    (hprog : s.hostProg = [.wr (wordAt 0x00C) v1, .wr (wordAt 0x010) v2, wrCmd i]) :
    ∃ t, Host.Core.run core 3 s = .next t ∧ t.SubmittedWith i s.cfg s.arg0 v1 v2 := by
  have hwritten : State.HostMoves
      { s with arg1 := v1, hostProg := [.wr (wordAt 0x010) v2, wrCmd i], held := false } :=
    ⟨h.port, h.idle, h.unnamed⟩
  obtain ⟨t, hrun, hsub⟩ := hwritten.submit_arg2 rfl
  exact ⟨t, (h.run_wr hprog 2).trans hrun, hsub⟩

theorem State.HostMoves.submit_arg0_arg1_arg2 (h : s.HostMoves)
    (hprog : s.hostProg = [.wr (wordAt 0x008) v0, .wr (wordAt 0x00C) v1, .wr (wordAt 0x010) v2, wrCmd i]) :
    ∃ t, Host.Core.run core 4 s = .next t ∧ t.SubmittedWith i s.cfg v0 v1 v2 := by
  have hwritten : State.HostMoves { s with
      arg0 := v0, hostProg := [.wr (wordAt 0x00C) v1, .wr (wordAt 0x010) v2, wrCmd i], held := false } :=
    ⟨h.port, h.idle, h.unnamed⟩
  obtain ⟨t, hrun, hsub⟩ := hwritten.submit_arg1_arg2 rfl
  exact ⟨t, (h.run_wr hprog 3).trans hrun, hsub⟩

end

/-! ## The words of the expansions -/

theorem imm32_iff (n : Int) : imm32 n = true ↔ 0 ≤ n ∧ n < 4294967296 := by
  rw [imm32, Bool.and_eq_true, decide_eq_true_iff, decide_eq_true_iff]

theorem imm16_iff (n : Int) : imm16 n = true ↔ 0 ≤ n ∧ n < 65536 := by
  rw [imm16, Bool.and_eq_true, decide_eq_true_iff, decide_eq_true_iff]

/-- A 32-bit immediate is the number of its word. -/
theorem ofInt_toNat_of_imm32 {n : Int} (h : imm32 n = true) : ((BitVec.ofInt 32 n).toNat : Int) = n := by
  rw [imm32_iff] at h
  rw [BitVec.toNat_ofInt]
  omega

theorem lo16_toNat_of_imm16 {n : Int} (h : imm16 n = true) : ((lo16 n).toNat : Int) = n := by
  rw [imm16_iff] at h
  rw [lo16, BitVec.toNat_ofInt]
  omega

theorem extractLsb'_lo16_pack16 (hi lo : Int) : (pack16 hi lo).extractLsb' 0 16 = lo16 lo :=
  BitVec.extractLsb'_append_eq_right

theorem extractLsb'_hi16_pack16 (hi lo : Int) : (pack16 hi lo).extractLsb' 16 16 = lo16 hi :=
  BitVec.extractLsb'_append_eq_left

/-- INIT's word, `(h << 16) | w`, packs the two fields. -/
theorem or_eq_pack16 {w h : Int} (hw : imm16 w = true) (hh : imm16 h = true) :
    BitVec.ofInt 32 (h * 65536) ||| BitVec.ofInt 32 w = pack16 h w := by
  have hlo := lo16_toNat_of_imm16 hw
  have hhi := lo16_toNat_of_imm16 hh
  rw [imm16_iff] at hw hh
  have hword {n : Int} (h0 : 0 ≤ n) (h1 : n < 4294967296) : (BitVec.ofInt 32 n).toNat = n.toNat := by
    have := ofInt_toNat_of_imm32 ((imm32_iff n).mpr ⟨h0, h1⟩)
    omega
  apply BitVec.eq_of_toNat_eq
  rw [pack16, BitVec.toNat_or, BitVec.toNat_append, Nat.shiftLeft_eq, hword (by omega) (by omega),
    hword (by omega) (by omega)]
  congr 1 <;> omega

theorem coordinate_lo16 {c : Config} (hc : c.coordBits = 16) {a : Int} (hlo : -32768 ≤ a) (hhi : a ≤ 32767) :
    coordinate c (lo16 a) = a := by
  rw [coordinate_standard c hc]
  exact BitVec.toInt_ofInt_eq_self (by decide) hlo (by omega)

/-- The point that the packed coordinates denote. -/
theorem wordPoint_pack16 {c : Config} (hc : c.coordBits = 16) {x y : Int} (hx : -32768 ≤ x) (hx' : x ≤ 32767)
    (hy : -32768 ≤ y) (hy' : y ≤ 32767) : wordPoint c (pack16 y x) = ⟨x, y⟩ := by
  rw [wordPoint, extractLsb'_lo16_pack16, extractLsb'_hi16_pack16, coordinate_lo16 hc hx hx', coordinate_lo16 hc hy hy']

/-! ## The operands that reach the command -/

section
variable {t : State} {n : Int} (h2 : t.larg2 = BitVec.ofInt 32 n) (hn : imm32 n = true)
include h2 hn

theorem value_iff_of_imm32 : t.value = true ↔ n % 256 ≠ 0 := by
  have := ofInt_toNat_of_imm32 hn
  rw [value_iff, h2]
  omega

theorem level_of_imm32 : (t.level.toNat : Int) = n % 256 := by
  have := ofInt_toNat_of_imm32 hn
  rw [level_toNat, h2]
  omega

theorem flag_of_imm32 : (t.flag.toNat : Int) = n % 2 := by
  have := ofInt_toNat_of_imm32 hn
  rw [flag_toNat, h2]
  omega

theorem extIn_iff_of_imm32 : t.extIn = true ↔ n % 2 = 1 := by
  have := ofInt_toNat_of_imm32 hn
  rw [extIn_iff, h2]
  omega

end

section
variable {t : State} {i : Instr} {c : Config} {l0 l1 l2 : Word}

theorem State.SubmittedWith.point0_eq {x y : Int} (h : t.SubmittedWith i c (pack16 y x) l1 l2)
    (hc : c.coordBits = 16) (hx : -32768 ≤ x) (hx' : x ≤ 32767) (hy : -32768 ≤ y) (hy' : y ≤ 32767) :
    t.point0 = ⟨x, y⟩ := by
  rw [State.point0, h.cfg, h.larg0, wordPoint_pack16 hc hx hx' hy hy']

theorem State.SubmittedWith.point1_eq {x y : Int} (h : t.SubmittedWith i c l0 (pack16 y x) l2)
    (hc : c.coordBits = 16) (hx : -32768 ≤ x) (hx' : x ≤ 32767) (hy : -32768 ≤ y) (hy' : y ≤ 32767) :
    t.point1 = ⟨x, y⟩ := by
  rw [State.point1, h.cfg, h.larg1, wordPoint_pack16 hc hx hx' hy hy']

theorem State.SubmittedWith.width_eq {hi lo : Int} (h : t.SubmittedWith i c (pack16 hi lo) l1 l2)
    (hlo : imm16 lo = true) : (t.width.toNat : Int) = lo := by
  rw [State.width, h.larg0, extractLsb'_lo16_pack16, lo16_toNat_of_imm16 hlo]

theorem State.SubmittedWith.height_eq {hi lo : Int} (h : t.SubmittedWith i c (pack16 hi lo) l1 l2)
    (hhi : imm16 hi = true) : (t.height.toNat : Int) = hi := by
  rw [State.height, h.larg0, extractLsb'_hi16_pack16, lo16_toNat_of_imm16 hhi]

end

/-- Settles O16: the accesses end with the words of the expansion latched (`State.SubmittedWith`), and the operands are
read from those words. -/
theorem assembledOperandsReachTheCommand : Obligations.AssembledOperandsReachTheCommand := by
  intro s x y x1 y1 v w h e hport hc hidle hturns
  have hmoves : s.HostMoves := ⟨hport, hidle, hturns⟩
  refine ⟨?_, ?_, ?_, ?_, ?_, ?_, ?_⟩
  · intro hx hx' hy hy' hv hprog
    obtain ⟨t, hrun, ht⟩ := hmoves.submit_arg0_arg2 hprog
    exact ⟨t, hrun, ht.accepted, ht.point0_eq hc hx hx' hy hy', value_iff_of_imm32 ht.larg2 hv, ht.prog⟩
  · intro hwf hprog
    obtain ⟨⟨hw, hh⟩, he⟩ : (imm16 w = true ∧ imm16 h = true) ∧ imm32 e = true := by
      simpa [Pseudo.wf] using hwf
    rw [Pseudo.expand, or_eq_pack16 hw hh] at hprog
    obtain ⟨t, hrun, ht⟩ := hmoves.submit_arg0_arg2 hprog
    exact ⟨t, hrun, ht.accepted, ht.width_eq hw, ht.height_eq hh, extIn_iff_of_imm32 ht.larg2 he,
      ht.prog⟩
  · intro hx hx' hy hy' hx1 hx1' hy1 hy1' hv hprog
    obtain ⟨t, hrun, ht⟩ := hmoves.submit_arg0_arg1_arg2 hprog
    exact ⟨t, hrun, ht.accepted, ht.point0_eq hc hx hx' hy hy', ht.point1_eq hc hx1 hx1' hy1 hy1',
      value_iff_of_imm32 ht.larg2 hv, ht.prog⟩
  · intro hv hprog
    obtain ⟨t, hrun, ht⟩ := hmoves.submit_arg2 hprog
    exact ⟨t, hrun, ht.accepted, level_of_imm32 ht.larg2 hv, ht.prog⟩
  · intro hv hprog
    obtain ⟨t, hrun, ht⟩ := hmoves.submit_arg2 hprog
    exact ⟨t, hrun, ht.accepted, flag_of_imm32 ht.larg2 hv, ht.prog⟩
  · intro p i hpi hprog
    have hexpand : p.expand = [wrCmd i] := by
      rcases hpi with ⟨rfl, rfl⟩ | ⟨rfl, rfl⟩ | ⟨rfl, rfl⟩ | ⟨rfl, rfl⟩ <;> rfl
    obtain ⟨t, hrun, ht⟩ := hmoves.submit (hprog.trans hexpand)
    exact ⟨t, hrun, ht.accepted, ht.prog⟩
  · intro hprog
    exact run_one (hmoves.step_wr hprog)

end Sys2Proof.Machine
end

section
/-!
PROOFS. INIT (40_init.md R59 to R64): its refusals, its 32 transactions and what a FAIL or a missing answer leaves, INIT
again after a failure, and the geometry, which is fixed until reset.
-/

namespace Sys2Proof.Machine

/-! ## The refusals (R60, R63) -/

theorem exec_init_alreadyReady {s : State} (hr : s.ready = true) : exec .init s = .next (s.refusedWith 4#4) := by
  rw [exec_eq, startCommand, startInit_ready s hr]
  rfl

theorem exec_init_badGeometry {s : State} (hr : s.ready = false)
    (hg : geometryLegal s.cfg s.width.toNat s.height.toNat = false) : exec .init s = .next (s.refusedWith 5#4) := by
  rw [exec_eq, startCommand, startInit_badGeometry s hr hg]
  rfl

/-! ## The zero fill (R61)

INIT fills the frame before its first transaction and again before FlushBody. The second fill changes nothing, so the
framebuffer is that of `initBegun` throughout. -/

/-- Filling twice is filling once: the second fill replaces the bytes that the first one wrote. -/
theorem fill_fill (m : Memory) (n : Nat) (v : Byte) : (m.fill n v).fill n v = m.fill n v := by
  have hwritten : ((List.range n).map fun i => (i, v)).filter (fun c => decide (n ≤ c.1)) = [] := by
    simp [List.filter_eq_nil_iff]
  rw [Memory.fill, Memory.fill, List.filter_append, hwritten, List.nil_append, List.filter_filter]
  simp only [Bool.and_self]

theorem zeroFill_initBegun (s : State) : (initBegun s).zeroFill = initBegun s := by
  rw [initBegun, State.zeroFill, frameBytes_zeroFill, zeroFill_fb, fill_fill]
  rfl

theorem zeroFill_sent (s : State) (records : List BusRecord) (r : List Turn) :
    (s.sent records r).zeroFill = s.zeroFill.sent records r := rfl

theorem fbRead_initBegun (s : State) (i : Nat) :
    (initBegun s).fbRead i = if i < s.height.toNat / 8 * s.width.toNat then 0x00#8 else s.fbRead i :=
  fbRead_zeroFill (s.setGeometry s.width s.height s.extIn) i

/-- The data transaction of INIT carries a zero frame. -/
theorem frame_initBegun (s : State) :
    (initBegun s).frame = List.replicate (s.height.toNat / 8 * s.width.toNat) 0x00#8 :=
  frame_eq_replicate (initBegun s) fun i hi => (fbRead_initBegun s i).trans (if_pos hi)

/-! ## The transactions (R61)

The actions of INIT are the 25 transactions of InitSeq, the second fill and the 7 transactions of FlushBody. -/

/-- The InitSeq of the INIT that `s` has accepted. -/
def State.initBytes (s : State) : List Byte := initSeq s.cfg.ctrl s.width.toNat s.height.toNat s.extIn

/-- The FlushBody of the INIT that `s` has accepted. -/
def State.initFlush (s : State) : List Action := flushBody s.cfg.ctrl s.width.toNat s.height.toNat

/-- All the actions of the INIT that `s` has accepted. -/
def State.initPlan (s : State) : List Action := initActions s.cfg.ctrl s.width.toNat s.height.toNat s.extIn

/-- The payloads of the InitSeq of the INIT that `s` has accepted. -/
def State.initSeqPayloads (s : State) : List (List Byte) := cmdPayloads s.cfg s.initBytes

/-- The payloads of the FlushBody of the INIT that `s` has accepted. -/
def State.initFlushPayloads (s : State) : List (List Byte) :=
  flushPayloads s.cfg s.width.toNat s.height.toNat (List.replicate (s.height.toNat / 8 * s.width.toNat) 0x00#8)

/-- All the payloads of the INIT that `s` has accepted. -/
def State.initPayloads (s : State) : List (List Byte) :=
  Machine.initPayloads s.cfg s.width.toNat s.height.toNat s.extIn

theorem initPlan_eq (s : State) : s.initPlan = sendAll s.initBytes ++ (.zeroFill :: (s.initFlush ++ [.ready])) := by
  rw [State.initPlan, initActions, List.append_assoc]
  rfl

theorem initPayloads_eq (s : State) : s.initPayloads = s.initSeqPayloads ++ s.initFlushPayloads := rfl

theorem initSeqPayloads_length (s : State) : s.initSeqPayloads.length = 25 := rfl

theorem initFlushPayloads_length (s : State) : s.initFlushPayloads.length = 7 := rfl

theorem map_payload_initBytes (s : State) :
    (sendAll s.initBytes).map (Action.payload (initBegun s)) = s.initSeqPayloads.map some :=
  map_payload_sendAll (initBegun s) s.initBytes

theorem map_payload_initFlush (s : State) :
    s.initFlush.map (Action.payload (initBegun s)) = s.initFlushPayloads.map some := by
  rw [State.initFlushPayloads, ← frame_initBegun]
  exact map_payload_flushBody (initBegun s) s.width.toNat s.height.toNat

theorem acks_add (m n : Nat) : acks (m + n) = acks m ++ acks n := List.replicate_add ..

/-- A transaction of INIT is one of InitSeq or one of FlushBody. -/
theorem initPayloads_getElem?_cases {s : State} {k : Nat} {p : List Byte} (h : s.initPayloads[k]? = some p) :
    (k < 25 ∧ s.initSeqPayloads[k]? = some p ∧ s.initPayloads.take k = s.initSeqPayloads.take k) ∨
    ∃ j, k = 25 + j ∧ s.initFlushPayloads[j]? = some p ∧
      s.initPayloads.take k = s.initSeqPayloads ++ s.initFlushPayloads.take j := by
  rw [initPayloads_eq] at h ⊢
  obtain hk | hk := Nat.lt_or_ge k 25
  · rw [List.getElem?_append_left (by rwa [initSeqPayloads_length])] at h
    exact .inl ⟨hk, h, List.take_append_of_le_length (by rw [initSeqPayloads_length]; omega)⟩
  · obtain ⟨j, rfl⟩ := Nat.exists_eq_add_of_le hk
    rw [← initSeqPayloads_length s] at h ⊢
    rw [List.getElem?_append_right (Nat.le_add_right _ _), Nat.add_sub_cancel_left] at h
    exact .inr ⟨j, rfl, h, List.take_length_add_append j⟩

/-- With InitSeq answered ACK, FlushBody is left, and the framebuffer is as it was. -/
theorem runActions_initPlan_seq_acked {s : State} {r : List Turn} (ht : s.turns = acks 25 ++ r) :
    runActions s.initPlan (initBegun s) =
      runActions (s.initFlush ++ [.ready]) ((initBegun s).sent (carried s.cfg s.initSeqPayloads) r) := by
  rw [initPlan_eq, runActions_sends_acks _ _ (initBegun s) _ r (map_payload_initBytes s) ht, runActions, zeroFill_sent,
    zeroFill_initBegun]
  rfl

/-- The FlushBody of an INIT whose InitSeq has been carried has the same payloads. -/
theorem map_payload_initFlush_sent (s : State) (records : List BusRecord) (r : List Turn) :
    s.initFlush.map (Action.payload ((initBegun s).sent records r)) = s.initFlushPayloads.map some := by
  rw [payload_sent, map_payload_initFlush]

theorem failed_sent (s : State) (a b : List BusRecord) (q r : List Turn) :
    (s.sent a q).failed b r = s.failed (a ++ b) r := by
  simp [State.failed, State.sent]

theorem carried_append (c : Config) (ps qs : List (List Byte)) :
    carried c (ps ++ qs) = carried c ps ++ carried c qs := List.map_append

/-- With every transaction answered ACK, INIT completes. -/
theorem runActions_initPlan_acked {s : State} {r : List Turn} (ht : s.turns = acks 32 ++ r) :
    runActions s.initPlan (initBegun s) = ((initBegun s).sent (carried s.cfg s.initPayloads) r).completeInit := by
  rw [acks_add 25 7, ← initFlushPayloads_length s, List.append_assoc] at ht
  rw [runActions_initPlan_seq_acked ht,
    runActions_sends_acks _ _ _ _ r (map_payload_initFlush_sent s _ _) rfl, sent_sent, initPayloads_eq, carried_append]
  rfl

/-- At the first transaction answered FAIL, INIT ends with TRANSPORT. -/
theorem runActions_initPlan_failed {s : State} {r : List Turn} {k : Nat} {p : List Byte}
    (hk : s.initPayloads[k]? = some p) (ht : s.turns = acks k ++ .answer .fail :: r) :
    runActions s.initPlan (initBegun s) =
      (initBegun s).failed (carried s.cfg (s.initPayloads.take k) ++ [failedTx s.cfg p]) r := by
  obtain ⟨-, hp, htake⟩ | ⟨j, rfl, hp, htake⟩ := initPayloads_getElem?_cases hk
  · rw [htake, initPlan_eq, runActions_sends_fail _ _ (initBegun s) _ k p r (map_payload_initBytes s) hp ht]
    rfl
  · rw [acks_add, List.append_assoc] at ht
    rw [htake, runActions_initPlan_seq_acked ht,
      runActions_sends_fail _ _ _ _ j p r (map_payload_initFlush_sent s _ _) hp rfl, failed_sent, carried_append,
      List.append_assoc]
    rfl

/-- The actions that are left of INIT while its `k`-th transaction is outstanding. -/
def State.initLeft (s : State) (k : Nat) : List Action :=
  if k < 25 then (sendAll s.initBytes).drop (k + 1) ++ .zeroFill :: s.initFlush ++ [.ready]
  else s.initFlush.drop (k - 24) ++ [.ready]

/-- At the first transaction with no answer, INIT waits. -/
theorem runActions_initPlan_waits {s : State} {r : List Turn} {k : Nat} {p : List Byte}
    (hk : s.initPayloads[k]? = some p) (ht : s.turns = acks k ++ r) (hr : noAnswerNext r) :
    runActions s.initPlan (initBegun s) =
      ((initBegun s).sent (carried s.cfg (s.initPayloads.take k)) r).issue p (s.initLeft k) := by
  obtain ⟨hlt, hp, htake⟩ | ⟨j, rfl, hp, htake⟩ := initPayloads_getElem?_cases hk
  · rw [htake, initPlan_eq, runActions_sends_wait _ _ (initBegun s) _ k p r (map_payload_initBytes s) hp ht hr,
      State.initLeft, if_pos hlt, List.append_assoc]
    rfl
  · rw [acks_add, List.append_assoc] at ht
    have hleft : s.initLeft (25 + j) = s.initFlush.drop (j + 1) ++ [.ready] := by
      rw [State.initLeft, if_neg (by omega), show 25 + j - 24 = j + 1 by omega]
    rw [htake, hleft, runActions_initPlan_seq_acked ht,
      runActions_sends_wait _ _ _ _ j p r (map_payload_initFlush_sent s _ _) hp rfl hr, sent_sent, carried_append]
    rfl

theorem exec_init_initPlan {s : State} (hr : s.ready = false)
    (hg : geometryLegal s.cfg s.width.toNat s.height.toNat = true) :
    exec .init s = .next (runActions s.initPlan (initBegun s)) :=
  exec_init_legal s hr hg

/-- Settles O20: the refusals before the command begins, and the three outcomes of the actions of INIT, run from
`initBegun`. -/
theorem initSemantics : Obligations.InitSemantics := by
  intro s rest
  refine ⟨rfl, rfl, rfl, rfl, rfl, exec_init_alreadyReady, fun hr hg => ?_, fun hr hg => ?_⟩
  · rw [← geometryLegal_iff, Bool.not_eq_true] at hg
    exact exec_init_badGeometry hr hg
  · rw [← geometryLegal_iff] at hg
    have hexec := exec_init_initPlan hr hg
    refine ⟨fun ht => ⟨_, hexec, ?_⟩, fun k p hk ht => ⟨_, hexec, ?_⟩,
      fun k p hk ht hnone => ⟨_, hexec, ?_⟩⟩
    · rw [runActions_initPlan_acked ht]
      exact ⟨rfl, fbRead_initBegun s⟩
    · rw [runActions_initPlan_failed hk ht]
      exact ⟨rfl, fbRead_initBegun s⟩
    · rw [runActions_initPlan_waits hk ht hnone]
      exact ⟨rfl, fbRead_initBegun s⟩

/-! ## After a failure (R62, R90) -/

theorem extpwr_of_notReady {s : State} (h : s.ready = false) : s.extpwr = false := by
  rw [State.extpwr, h, Bool.false_and]

/-- Settles O21: the failed INIT leaves READY = 0 and the latched operands, so other commands are refused and INIT runs
as before. -/
theorem failedInitLeavesBlockUninitialised : Obligations.FailedInitLeavesBlockUninitialised := by
  intro s t k p rest hr hg hk ht hexec
  have hfailed : t = (initBegun s).failed (carried s.cfg (s.initPayloads.take k) ++ [failedTx s.cfg p]) rest := by
    rw [exec_init_initPlan hr hg, runActions_initPlan_failed hk ht] at hexec
    exact (Host.Outcome.next.inj hexec).symm
  have hready : t.ready = false := by rw [hfailed]; exact hr
  have hlegal : geometryLegal t.cfg t.width.toNat t.height.toNat = true := by rw [hfailed]; exact hg
  have hcode : t.errcode = 1#4 := by rw [hfailed]; rfl
  refine ⟨hready, hcode, geom_of_notReady hready, extpwr_of_notReady hready, winWord_of_notReady hready,
    fun i hi => exec_notReady i hi t hready, fun q => ⟨_, exec_init_initPlan hready hlegal, ?_⟩⟩
  rw [runActions_initPlan_acked rfl]
  exact ⟨rfl, rfl⟩

/-! ## The geometry is fixed (R63) -/

/-- READY is 1 afterwards, and W, H and EXT are as before. -/
def GeometryFixed (s t : State) : Prop := t.ready = true ∧ t.w = s.w ∧ t.h = s.h ∧ t.ext = s.ext

theorem EngineAct.ready {s t : State} (h : EngineAct s t) (hr : s.ready = true) : t.ready = true := by
  cases h with
  | setBit p v => rw [fbSetBit_ready, hr]
  | record res => rw [record_ready, hr]
  | completeInit => rfl
  | _ => exact hr

theorem EngineActs.ready {s t : State} (h : EngineActs s t) (hr : s.ready = true) : t.ready = true := by
  induction h with
  | refl => exact hr
  | tail _ hact ih => exact hact.ready ih

theorem EngineActs.geometryFixed {s t : State} (h : EngineActs s t) (hr : s.ready = true) : GeometryFixed s t :=
  have hkeeps := h.keeps
  ⟨h.ready hr, hkeeps.w, hkeeps.h, hkeeps.ext⟩

/-- INIT latches a geometry with READY = 0 only. -/
theorem EngineMove.geometryFixed {s t : State} (h : EngineMove s t) (hr : s.ready = true) : GeometryFixed s t := by
  cases h with
  | nothing h => rw [h]; exact ⟨hr, rfl, rfl, rfl⟩
  | refuse c h => rw [h]; exact ⟨hr, rfl, rfl, rfl⟩
  | acts _ h => exact h.geometryFixed hr
  | initBegins hr' => exact absurd (hr'.symm.trans hr) Bool.false_ne_true

theorem hostTurn_geometryFixed {s : State} (hr : s.ready = true) : GeometryFixed s (hostTurn s) := by
  obtain ⟨-, -, -, hready, hw, hh, hext, -⟩ := hostTurn_keeps s
  exact ⟨hready.trans hr, hw, hh, hext⟩

theorem AgentMove.geometryFixed {s t : State} (h : AgentMove s t) (hr : s.ready = true) : GeometryFixed s t := by
  cases h with
  | host h => rw [h]; exact hostTurn_geometryFixed hr
  | engine h => exact (engineTurn_move h).geometryFixed hr
  | micro h => rw [h]; exact (microTurn_move s).geometryFixed hr
  | answer a h => rw [h]; exact (answerTurn_acts a s).geometryFixed hr
  | lateAnswer h => rw [h]; exact ⟨hr, rfl, rfl, rfl⟩

/-- Settles O47, agent by agent. -/
theorem geometryIsFixedUntilReset : Obligations.GeometryIsFixedUntilReset := by
  intro s t hr
  refine ⟨exec_init_alreadyReady hr, fun hstep hnoReset => ?_⟩
  obtain ⟨r, hreset, -⟩ | ⟨r, hmove⟩ := step_next_cases hstep
  · exact absurd hreset (hnoReset r)
  · exact hmove.geometryFixed hr

end Sys2Proof.Machine
end

section
/-!
PROOFS. CLEAR and FLUSH (41_clear_flush.md R65 to R70): the one zero fill of CLEAR, and the seven transactions of FLUSH
with what a FAIL or a missing answer leaves.
-/

namespace Sys2Proof.Machine

/-! ## CLEAR (R65) -/

/-- The actions of CLEAR are one zero fill, and the command ends after it. -/
theorem exec_clear_ready {s : State} (hr : s.ready = true) : exec .clear s = .next s.zeroFill.complete :=
  exec_ready .clear nofun s hr

theorem fbRead_complete (s : State) (i : Nat) : s.complete.fbRead i = s.fbRead i := rfl

/-- Settles O22: the zero fill writes the bytes of the frame, and the end of the command the STATUS result. -/
theorem clearSemantics : Obligations.ClearSemantics := by
  refine ⟨rfl, rfl, fun s => ⟨exec_notReady .clear nofun s, fun hr => ⟨_, exec_clear_ready hr, rfl, fun i => ?_⟩⟩⟩
  rw [fbRead_complete, fbRead_zeroFill]
  rfl

/-! ## FLUSH (R68, R69) -/

/-- The actions of a FLUSH in the geometry of `s`. -/
def State.flushPlan (s : State) : List Action := flushBody s.cfg.ctrl s.w.toNat s.h.toNat

/-- The payloads of a FLUSH of the framebuffer of `s`. -/
def State.flushPayloads (s : State) : List (List Byte) :=
  Machine.flushPayloads s.cfg s.w.toNat s.h.toNat s.frame

theorem flushPayloads_length (s : State) : s.flushPayloads.length = 7 := rfl

theorem map_payload_flushPlan (s : State) :
    s.flushPlan.map (Action.payload s) = s.flushPayloads.map some :=
  map_payload_flushBody s s.w.toNat s.h.toNat

/-- A FLUSH is the transactions of FlushBody, with nothing to do after them. -/
theorem exec_flush_ready {s : State} (hr : s.ready = true) :
    exec .flush s = .next (runActions (s.flushPlan ++ []) s) := by
  rw [exec_ready .flush nofun s hr, List.append_nil]
  rfl

theorem complete_sent (s : State) (records : List BusRecord) (r : List Turn) :
    (s.sent records r).complete = s.done records r := rfl

section
variable {s : State} {r : List Turn} {k : Nat} {p : List Byte}

/-- With every transaction answered ACK, FLUSH completes. -/
theorem exec_flush_acked (hr : s.ready = true) (ht : s.turns = acks 7 ++ r) :
    exec .flush s = .next (s.done (carried s.cfg s.flushPayloads) r) := by
  rw [← flushPayloads_length s] at ht
  rw [exec_flush_ready hr, runActions_sends_acks _ _ s _ r (map_payload_flushPlan s) ht, runActions, complete_sent]

/-- At the first transaction answered FAIL, FLUSH ends with TRANSPORT. -/
theorem exec_flush_failed (hr : s.ready = true) (hk : s.flushPayloads[k]? = some p)
    (ht : s.turns = acks k ++ .answer .fail :: r) :
    exec .flush s = .next (s.failed (carried s.cfg (s.flushPayloads.take k) ++ [failedTx s.cfg p]) r) := by
  rw [exec_flush_ready hr, runActions_sends_fail _ _ s _ k p r (map_payload_flushPlan s) hk ht]

/-- At the first transaction with no answer, FLUSH waits with the later ones left. -/
theorem exec_flush_waits (hr : s.ready = true) (hk : s.flushPayloads[k]? = some p) (ht : s.turns = acks k ++ r)
    (hnone : noAnswerNext r) :
    exec .flush s =
      .next ((s.sent (carried s.cfg (s.flushPayloads.take k)) r).issue p (s.flushPlan.drop (k + 1))) := by
  rw [exec_flush_ready hr, runActions_sends_wait _ _ s _ k p r (map_payload_flushPlan s) hk ht hnone, List.append_nil]

end

/-- Settles O23: the three outcomes of the transactions of FlushBody, whose data block is `State.frame`. -/
theorem flushSemantics : Obligations.FlushSemantics := fun s _ =>
  ⟨rfl, rfl, exec_notReady .flush nofun s, exec_flush_acked, fun hr _ _ => exec_flush_failed hr,
    fun hr _ _ => exec_flush_waits hr⟩

end Sys2Proof.Machine
end

section
/-!
PROOFS. SET_PIXEL and DRAW_LINE (42_pixel_line.md R71, R76, R78): the points drawn, and nothing else.
-/

namespace Sys2Proof.Machine

/-! ## The bits that a list of points falls on -/

/-- An in-range point of the list falls on bit `b` of framebuffer byte `i`. -/
def State.Hits (s : State) (ps : List Point) (i b : Nat) : Prop :=
  ∃ p ∈ ps, s.inRange p = true ∧ i = pixIndex s.w.toNat p.x.toNat p.y.toNat ∧ b = p.y.toNat % 8

theorem hits_iff (s : State) (ps : List Point) (i b : Nat) :
    s.Hits ps i b ↔ ∃ p ∈ ps,
      (0 ≤ p.x ∧ p.x < (s.w.toNat : Int) ∧ 0 ≤ p.y ∧ p.y < (s.h.toNat : Int)) ∧
      i = p.y.toNat / 8 * s.w.toNat + p.x.toNat ∧ b = p.y.toNat % 8 := by
  simp only [State.Hits, inRange_iff, pixIndex]

theorem hits_of_mem {s : State} {ps : List Point} {p : Point} (hp : p ∈ ps) (hin : s.inRange p = true) :
    s.Hits ps (pixIndex s.w.toNat p.x.toNat p.y.toNat) (p.y.toNat % 8) :=
  ⟨p, hp, hin, rfl, rfl⟩

theorem State.Hits.of_subset {s : State} {ps qs : List Point} {i b : Nat} (h : s.Hits ps i b)
    (hsub : ∀ p, s.inRange p = true → p ∈ ps → p ∈ qs) : s.Hits qs i b := by
  obtain ⟨p, hp, hin, hbyte, hbit⟩ := h
  exact ⟨p, hsub p hin hp, hin, hbyte, hbit⟩

@[simp] theorem drawAll_w (s : State) (ps : List Point) (v : Bool) : (s.drawAll ps v).w = s.w := by
  rw [drawAll_rest]

@[simp] theorem inRange_drawAll (s : State) (ps : List Point) (v : Bool) (q : Point) :
    (s.drawAll ps v).inRange q = s.inRange q := by
  rw [drawAll_rest]; rfl

@[simp] theorem hits_drawAll (s : State) (ps qs : List Point) (v : Bool) (i b : Nat) :
    (s.drawAll ps v).Hits qs i b ↔ s.Hits qs i b := by
  simp only [State.Hits, inRange_drawAll, drawAll_w]

theorem fbBit_drawAll_of_hits {s : State} {ps : List Point} {i b : Nat} (h : s.Hits ps i b) (v : Bool)
    (hb : b < 8) : ((s.drawAll ps v).fbRead i).getLsbD b = v :=
  (fbBit_drawAll s ps v i b hb).trans (if_pos h)

theorem fbBit_drawAll_of_not_hits {s : State} {ps : List Point} {i b : Nat} (h : ¬ s.Hits ps i b) (v : Bool)
    (hb : b < 8) : ((s.drawAll ps v).fbRead i).getLsbD b = (s.fbRead i).getLsbD b :=
  (fbBit_drawAll s ps v i b hb).trans (if_neg h)

/-! ## Order and repeats do not matter (R78) -/

/-- Lists that fall on the same bits draw the same framebuffer. -/
theorem fbRead_drawAll_congr {s : State} {ps qs : List Point} (h : ∀ i b, s.Hits ps i b ↔ s.Hits qs i b) (v : Bool)
    (i : Nat) : (s.drawAll ps v).fbRead i = (s.drawAll qs v).fbRead i := by
  refine BitVec.eq_of_getLsbD_eq fun b hb => ?_
  by_cases hhit : s.Hits ps i b
  · rw [fbBit_drawAll_of_hits hhit v hb, fbBit_drawAll_of_hits ((h i b).mp hhit) v hb]
  · rw [fbBit_drawAll_of_not_hits hhit v hb, fbBit_drawAll_of_not_hits (mt (h i b).mpr hhit) v hb]

theorem drawAll_append (s : State) (ps qs : List Point) (v : Bool) :
    s.drawAll (ps ++ qs) v = (s.drawAll ps v).drawAll qs v := List.foldl_append

theorem hits_append_comm (s : State) (ps qs : List Point) (i b : Nat) :
    s.Hits (ps ++ qs) i b ↔ s.Hits (qs ++ ps) i b := by
  simp only [State.Hits, List.mem_append, or_comm]

/-- Two drawings with the same value commute. -/
theorem fbRead_drawAll_comm (s : State) (ps qs : List Point) (v : Bool) (i : Nat) :
    ((s.drawAll ps v).drawAll qs v).fbRead i = ((s.drawAll qs v).drawAll ps v).fbRead i := by
  rw [← drawAll_append, ← drawAll_append]
  exact fbRead_drawAll_congr (hits_append_comm s ps qs) v i

/-- An in-range point of the list has the value it was drawn with. -/
theorem pixel_drawAll {s : State} {qs : List Point} {q : Point} (hq : q ∈ qs) (hin : s.inRange q = true) (v : Bool) :
    (s.drawAll qs v).pixel q.x.toNat q.y.toNat = v := by
  rw [State.pixel, drawAll_w]
  exact fbBit_drawAll_of_hits (hits_of_mem hq hin) v (Nat.mod_lt _ (by omega))

/-- Settles O27: each bit depends on whether the list hits it, and two drawings are one of the appended lists. -/
theorem drawingDependsOnThePointSetOnly : Obligations.DrawingDependsOnThePointSetOnly := by
  intro s ps qs u v
  refine ⟨fun h => fbRead_drawAll_congr (fun i b => ⟨fun hhit => ?_, fun hhit => ?_⟩) v,
    fbRead_drawAll_comm s ps qs v, fun q hq hin => ?_⟩
  · exact hhit.of_subset fun p hin => (h p hin).mp
  · exact hhit.of_subset fun p hin => (h p hin).mpr
  · exact pixel_drawAll hq ((inRange_drawAll s ps u q).trans hin) v

/-! ## The commands (R71, R76) -/

/-- The end of a command that draws: the framebuffer and the command's end are all that changes. -/
theorem complete_drawAll (s : State) (ps : List Point) (v : Bool) :
    (s.drawAll ps v).complete =
      { s with lastfail := false, busy := false, todo := none, pending := none, fb := (s.drawAll ps v).fb } := by
  conv_lhs => rw [drawAll_rest]
  rfl

theorem exec_setPixel_ready {s : State} (hr : s.ready = true) :
    exec .setPixel s = .next (s.drawAll [s.point0] s.value).complete :=
  exec_ready .setPixel nofun s hr

theorem exec_drawLine_ready {s : State} (hr : s.ready = true) :
    exec .drawLine s = .next (s.drawAll (linePoints s.cfg.lineAlg s.point0 s.point1) s.value).complete := by
  rw [exec_ready .drawLine nofun s hr]
  exact congrArg _ (runActions_setAll _ _ s)

/-- Settles O25: the one FbSetBit of the command is O24's. -/
theorem setPixelSemantics : Obligations.SetPixelSemantics := by
  refine ⟨rfl, rfl, fun s => ⟨exec_notReady .setPixel nofun s, fun hr => ?_⟩⟩
  obtain ⟨-, hout, hin⟩ := fbSetBitChangesOneBitOrNothing s s.point0 s.value
  exact ⟨_, exec_setPixel_ready hr, complete_drawAll s [s.point0] s.value,
    fun h => (congrArg State.fb (hout h) :), hin⟩

/-- Settles O26: each bit after the FbSetBits of the path, whatever the path is. -/
theorem drawLineSetsExactlyThePath : Obligations.DrawLineSetsExactlyThePath := by
  refine ⟨rfl, rfl, fun s => ⟨exec_notReady .drawLine nofun s, fun hr => ?_⟩⟩
  refine ⟨_, exec_drawLine_ready hr, complete_drawAll s _ s.value, fun i b hb => ?_⟩
  rw [← hits_iff, fbRead_complete]
  exact ⟨fun h => fbBit_drawAll_of_hits h s.value hb, fun h => fbBit_drawAll_of_not_hits h s.value hb⟩

end Sys2Proof.Machine
end

section
/-!
PROOFS. The line rasterizer (42_pixel_line.md R73 to R75). The reference rasterizer's `k`-th point in closed form: the
major coordinate has stepped `k` times, the minor one `(2*k*dy + dx) / (2*dx)` times, and the end point is the point
after the last iteration.
-/

namespace Sys2Proof.Machine

/-! ## The inner while (R75 (1)) -/

theorem minorWhile_of_neg {e : Int} (he : e < 0) (sy dx b : Int) (fuel : Nat) :
    minorWhile sy dx fuel (b, e) = (b, e) := by
  cases fuel with
  | zero => rfl
  | succ fuel => exact if_neg (Int.not_le.mpr he)

/-- With an error term below `2*dx` the inner while runs at most once. -/
theorem minorWhile_eq_ite {fuel : Nat} {dx e : Int} (hfuel : 1 ≤ fuel) (he : e < 2 * dx) (sy b : Int) :
    minorWhile sy dx fuel (b, e) = (if e ≥ 0 then b + sy else b, if e ≥ 0 then e - 2 * dx else e) := by
  obtain ⟨fuel, rfl⟩ := Nat.exists_eq_add_of_le' hfuel
  rw [minorWhile]
  split
  · exact minorWhile_of_neg (by omega) sy dx (b + sy) fuel
  · rfl

/-- The error term stays below `2*dx`, so the two loops draw the same points. -/
theorem refLoopWhile_eq_refLoop {fuel : Nat} {dx dy e : Int} (hfuel : 1 ≤ fuel) (hdy : dy ≤ dx) (he : e < 2 * dx)
    (steep : Bool) (sx sy : Int) (n : Nat) (a b : Int) :
    refLoopWhile fuel steep sx sy dx dy n a b e = refLoop steep sx sy dx dy n a b e := by
  induction n generalizing a b e with
  | zero => rfl
  | succ n ih =>
    have hnext : (if e ≥ 0 then e - 2 * dx else e) + 2 * dy < 2 * dx := by split <;> omega
    rw [refLoopWhile, refLoop, minorWhile_eq_ite hfuel he, ih hnext]

/-- Settles O30: the initial error term is below `2*dx`. -/
theorem innerWhileRunsAtMostOnce : Obligations.InnerWhileRunsAtMostOnce := by
  intro fuel steep sx sy dx dy n a b hfuel _ hle hpos
  exact refLoopWhile_eq_refLoop hfuel hle (by omega) steep sx sy n a b

/-! ## The points of the reference rasterizer (R74) -/

theorem adjacent_refPoint (steep : Bool) (a b a' b' : Int) :
    adjacent (refPoint steep a b) (refPoint steep a' b') = true ↔ max (a' - a).natAbs (b' - b).natAbs = 1 := by
  cases steep
  · exact beq_iff_eq
  · rw [max_comm]; exact beq_iff_eq

theorem refPoint_major_inj {steep : Bool} {a b a' b' : Int} (h : refPoint steep a b = refPoint steep a' b') :
    a = a' := by
  cases steep
  · exact congrArg Point.x h
  · exact congrArg Point.y h

/-- A sum that reaches the modulus once. -/
theorem div_mod_add_of_le {x y m : Nat} (hm : 0 < m) (hy : y ≤ m) (h : m ≤ x % m + y) :
    (x + y) / m = x / m + 1 ∧ (x + y) % m = x % m + y - m := by
  have hx := Nat.mod_add_div x m
  have hlt := Nat.mod_lt x hm
  rw [Nat.div_mod_unique hm, Nat.mul_succ]
  omega

/-- A sum that does not reach the modulus. -/
theorem div_mod_add_of_lt {x y m : Nat} (h : x % m + y < m) : (x + y) / m = x / m ∧ (x + y) % m = x % m + y := by
  have hx := Nat.mod_add_div x m
  rw [Nat.div_mod_unique (by omega)]
  omega

/-- What the reference rasterizer sets up before its loop (R74): the distances and the directions along the major and
the minor coordinate, and the coordinates it starts from. -/
structure LineSetup where
  steep : Bool
  sx : Int
  sy : Int
  dx : Nat
  dy : Nat
  a : Int
  b : Int
  sx_unit : sx = 1 ∨ sx = -1
  sy_unit : sy = 1 ∨ sy = -1
  dy_le_dx : dy ≤ dx

namespace LineSetup

variable (c : LineSetup)

/-- The loop of R74 from this setup. -/
def loop : List Point := refLoop c.steep c.sx c.sy c.dx c.dy c.dx c.a c.b (2 * c.dy - c.dx)

/-- `2*k*dy + dx`: the minor coordinate has stepped once for each `2*dx` in it. -/
def phase (k : Nat) : Nat := 2 * k * c.dy + c.dx

/-- How often the minor coordinate has stepped before iteration `k`. -/
def minorSteps (k : Nat) : Nat := c.phase k / (2 * c.dx)

/-- The error term at the top of iteration `k`. -/
def errorTerm (k : Nat) : Int := (c.phase k % (2 * c.dx) : Nat) + 2 * c.dy - 2 * c.dx

/-- The `k`-th point. -/
def point (k : Nat) : Point := refPoint c.steep (c.a + k * c.sx) (c.b + c.minorSteps k * c.sy)

theorem phase_zero : c.phase 0 = c.dx := by simp [phase]

theorem phase_succ (k : Nat) : c.phase (k + 1) = c.phase k + 2 * c.dy := by
  rw [phase, phase]; ring

theorem minorSteps_zero : c.minorSteps 0 = 0 := by
  rw [minorSteps, phase_zero]
  obtain h | h := Nat.eq_zero_or_pos c.dx
  · rw [h]
  · exact Nat.div_eq_of_lt (by omega)

theorem minorSteps_dx : c.minorSteps c.dx = c.dy := by
  have hle := c.dy_le_dx
  obtain h | h := Nat.eq_zero_or_pos c.dx
  · rw [minorSteps, h, Nat.mul_zero, Nat.div_zero]; omega
  · rw [minorSteps, phase, Nat.mul_add_div (by omega), Nat.div_eq_of_lt (by omega : c.dx < 2 * c.dx), Nat.add_zero]

theorem errorTerm_zero (hdx : 0 < c.dx) : c.errorTerm 0 = 2 * c.dy - c.dx := by
  rw [errorTerm, phase_zero, Nat.mod_eq_of_lt (by omega)]
  omega

/-- The error term is not negative when the next `2*dy` completes a multiple of `2*dx`. -/
theorem errorTerm_nonneg_iff (k : Nat) : 0 ≤ c.errorTerm k ↔ 2 * c.dx ≤ c.phase k % (2 * c.dx) + 2 * c.dy := by
  rw [errorTerm]; omega

/-- One iteration: the minor coordinate steps, and the error term falls by `2*dx`, when the error term is not
negative. -/
theorem iteration (hdx : 0 < c.dx) (k : Nat) :
    c.minorSteps (k + 1) = (if c.errorTerm k ≥ 0 then c.minorSteps k + 1 else c.minorSteps k) ∧
    c.errorTerm (k + 1) = (if c.errorTerm k ≥ 0 then c.errorTerm k - 2 * c.dx else c.errorTerm k) + 2 * c.dy := by
  have hdy := c.dy_le_dx
  by_cases h : c.errorTerm k ≥ 0
  · obtain ⟨hdiv, hmod⟩ := div_mod_add_of_le (by omega) (by omega) ((c.errorTerm_nonneg_iff k).mp h)
    rw [if_pos h, if_pos h, minorSteps, errorTerm, phase_succ, hdiv, hmod]
    exact ⟨rfl, by rw [errorTerm] at h ⊢; omega⟩
  · obtain ⟨hdiv, hmod⟩ := div_mod_add_of_lt (Nat.not_le.mp (mt (c.errorTerm_nonneg_iff k).mpr h))
    rw [if_neg h, if_neg h, minorSteps, errorTerm, phase_succ, hdiv, hmod]
    exact ⟨rfl, by rw [errorTerm]; omega⟩

/-- `n` iterations from iteration `k` draw the points `k, ..., k + n - 1`. -/
theorem refLoop_eq_map_range' (hdx : 0 < c.dx) (n k : Nat) :
    refLoop c.steep c.sx c.sy c.dx c.dy n (c.a + k * c.sx) (c.b + c.minorSteps k * c.sy) (c.errorTerm k) =
      (List.range' k n).map c.point := by
  induction n generalizing k with
  | zero => rfl
  | succ n ih =>
    obtain ⟨hminor, herror⟩ := c.iteration hdx k
    have hmajor : c.a + k * c.sx + c.sx = c.a + (k + 1 : Nat) * c.sx := by push_cast; ring
    have hstep : (if c.errorTerm k ≥ 0 then c.b + c.minorSteps k * c.sy + c.sy else c.b + c.minorSteps k * c.sy) =
        c.b + c.minorSteps (k + 1) * c.sy := by
      rw [hminor]
      split
      · push_cast; ring
      · rfl
    rw [refLoop, hmajor, hstep, ← herror, ih, List.range'_succ, List.map_cons]
    rfl

/-- The loop from the setup, with the end point after it. -/
theorem loop_append_point_dx : c.loop ++ [c.point c.dx] = (List.range (c.dx + 1)).map c.point := by
  rw [loop, List.range_succ, List.map_append, List.map_singleton, List.range_eq_range']
  congr 1
  obtain h | h := Nat.eq_zero_or_pos c.dx
  · rw [h]; rfl
  · rw [← c.refLoop_eq_map_range' h, minorSteps_zero, errorTerm_zero c h]
    simp

theorem point_zero : c.point 0 = refPoint c.steep c.a c.b := by
  rw [point, minorSteps_zero]
  simp

theorem point_dx : c.point c.dx = refPoint c.steep (c.a + c.dx * c.sx) (c.b + c.dy * c.sy) := by
  rw [point, minorSteps_dx]

/-- The major coordinate moves in one direction. -/
theorem point_injective : Function.Injective c.point := by
  intro k l h
  have hmajor : c.a + k * c.sx = c.a + l * c.sx := refPoint_major_inj h
  obtain hsx | hsx := c.sx_unit <;> rw [hsx] at hmajor <;> omega

theorem minorSteps_succ_cases (hdx : 0 < c.dx) (k : Nat) :
    c.minorSteps (k + 1) = c.minorSteps k ∨ c.minorSteps (k + 1) = c.minorSteps k + 1 := by
  rw [(c.iteration hdx k).1]
  split
  · exact .inr rfl
  · exact .inl rfl

/-- The major coordinate changes by 1 and the minor one by at most 1 (R75 (2)). -/
theorem adjacent_point_succ (hdx : 0 < c.dx) (k : Nat) : adjacent (c.point k) (c.point (k + 1)) = true := by
  have hmajor : (c.a + (k + 1 : Nat) * c.sx - (c.a + k * c.sx)).natAbs = 1 := by
    obtain h | h := c.sx_unit <;> rw [h] <;> omega
  have hminor : (c.b + c.minorSteps (k + 1) * c.sy - (c.b + c.minorSteps k * c.sy)).natAbs ≤ 1 := by
    have := c.minorSteps_succ_cases hdx k
    obtain h | h := c.sy_unit <;> rw [h] <;> omega
  rw [point, point, adjacent_refPoint, hmajor, Nat.max_eq_left hminor]

end LineSetup

/-- The distance and the direction that R74 takes from a difference of coordinates. -/
theorem add_natAbs_mul_sign (a b : Int) : a + (b - a).natAbs * (if b - a > 0 then 1 else -1) = b := by
  split <;> omega

theorem sign_unit (d : Int) : (if d > 0 then (1 : Int) else -1) = 1 ∨ (if d > 0 then (1 : Int) else -1) = -1 := by
  split
  · exact .inl rfl
  · exact .inr rfl

/-- The setup of the segment from `p` to `q` (R74). -/
def lineSetup (p q : Point) : LineSetup :=
  if h : (q.y - p.y).natAbs > (q.x - p.x).natAbs then
    { steep := true, sx := if q.y - p.y > 0 then 1 else -1, sy := if q.x - p.x > 0 then 1 else -1,
      dx := (q.y - p.y).natAbs, dy := (q.x - p.x).natAbs, a := p.y, b := p.x,
      sx_unit := sign_unit _, sy_unit := sign_unit _, dy_le_dx := Nat.le_of_lt h }
  else
    { steep := false, sx := if q.x - p.x > 0 then 1 else -1, sy := if q.y - p.y > 0 then 1 else -1,
      dx := (q.x - p.x).natAbs, dy := (q.y - p.y).natAbs, a := p.x, b := p.y,
      sx_unit := sign_unit _, sy_unit := sign_unit _, dy_le_dx := Nat.not_lt.mp h }

theorem lineSetup_dx (p q : Point) : (lineSetup p q).dx = max (q.x - p.x).natAbs (q.y - p.y).natAbs := by
  unfold lineSetup
  split <;> simp only <;> omega

theorem lineSetup_point_zero (p q : Point) : (lineSetup p q).point 0 = p := by
  rw [LineSetup.point_zero]
  unfold lineSetup
  split <;> rfl

theorem lineSetup_point_dx (p q : Point) : (lineSetup p q).point (lineSetup p q).dx = q := by
  rw [LineSetup.point_dx]
  unfold lineSetup
  split <;> simp only [refPoint, add_natAbs_mul_sign] <;> rfl

theorem refLine_eq_loop_append (p q : Point) : refLine p q = (lineSetup p q).loop ++ [q] := by
  unfold refLine lineSetup
  by_cases h : (q.y - p.y).natAbs > (q.x - p.x).natAbs
  · rw [dif_pos h]
    exact if_pos (Int.ofNat_lt.mpr h)
  · rw [dif_neg h]
    exact if_neg (mt Int.ofNat_lt.mp h)

/-- The reference rasterizer's points, in order. -/
theorem refLine_eq_map_range (p q : Point) :
    refLine p q = (List.range ((lineSetup p q).dx + 1)).map (lineSetup p q).point := by
  rw [← LineSetup.loop_append_point_dx, lineSetup_point_dx, refLine_eq_loop_append]

/-- Settles O29: the points are those of `0, ..., dx`, and the major coordinate tells them apart. -/
theorem referenceLinePointCount : Obligations.ReferenceLinePointCount := by
  intro p q
  rw [refLine_eq_map_range]
  refine ⟨?_, List.nodup_range.map (lineSetup p q).point_injective⟩
  rw [List.length_map, List.length_range, lineSetup_dx]

/-! ## Conformance (R73, R75 (3)) -/

theorem noGaps_iff_isChain (ps : List Point) : noGaps ps = true ↔ ps.IsChain (adjacent · · = true) := by
  induction ps using noGaps.induct with
  | case1 => simp [noGaps]
  | case2 p => simp [noGaps]
  | case3 p q ps ih => rw [noGaps, Bool.and_eq_true, ih, List.isChain_cons_cons]

theorem conforming_iff (p q : Point) (ps : List Point) :
    conforming p q ps = true ↔
      ps.head? = some p ∧ ps.getLast? = some q ∧ (p = q → ps = [p]) ∧ ps.IsChain (adjacent · · = true) := by
  have hsingle : (p != q || ps == [p]) = true ↔ (p = q → ps = [p]) := by
    rw [Bool.or_eq_true, bne_iff_ne, beq_iff_eq, imp_iff_not_or]
  rw [conforming, Bool.and_eq_true, Bool.and_eq_true, Bool.and_eq_true, hsingle, noGaps_iff_isChain, beq_iff_eq,
    beq_iff_eq, and_assoc, and_assoc]

/-- The reference rasterizer is a conforming LINE_ALG. -/
theorem conforming_refLine (p q : Point) : conforming p q (refLine p q) = true := by
  rw [conforming_iff, refLine_eq_map_range]
  refine ⟨?_, ?_, fun h => ?_, ?_⟩
  · rw [List.range_succ_eq_map, List.map_cons, List.head?_cons, lineSetup_point_zero]
  · rw [List.range_succ, List.map_append, List.map_singleton, List.getLast?_concat, lineSetup_point_dx]
  · have hdx : (lineSetup p q).dx = 0 := by rw [lineSetup_dx, h]; simp
    rw [hdx, Nat.zero_add, List.range_one, List.map_singleton, lineSetup_point_zero]
  · rw [List.isChain_map, List.isChain_range_succ]
    exact fun k hk => (lineSetup p q).adjacent_point_succ (by omega) k

/-- Every LINE_ALG of the model is conforming: the reference one, and any other after its check. -/
theorem conforming_linePoints (alg : LineAlg) (p q : Point) : conforming p q (linePoints alg p q) = true := by
  cases alg with
  | reference => exact conforming_refLine p q
  | other n =>
    rw [linePoints]
    split
    · assumption
    · exact conforming_refLine p q

/-- Settles O28: the statement is conformance read point by point. -/
theorem lineAlgorithmConforms : Obligations.LineAlgorithmConforms := by
  intro alg p q
  obtain ⟨hhead, hlast, hsingle, hchain⟩ := (conforming_iff p q _).mp (conforming_linePoints alg p q)
  refine ⟨hhead, hlast, hsingle, fun k a b ha hb => ?_⟩
  obtain ⟨hk, rfl⟩ := List.getElem?_eq_some_iff.mp ha
  obtain ⟨hk', rfl⟩ := List.getElem?_eq_some_iff.mp hb
  exact beq_iff_eq.mp (List.isChain_iff_getElem.mp hchain k hk')

end Sys2Proof.Machine
end

section
/-!
PROOFS. The pass-throughs CONTRAST, INVERT, POWER_ON and POWER_OFF (43_passthrough.md R79 to R83). Each is one SendCmd for
each byte of a list (`SendsBytes`), with nothing to do after the last one.
-/

namespace Sys2Proof.Machine

/-! ## A command that is one SendCmd for each byte of a list -/

/-- In the state `s` the command is one SendCmd for each byte of `bs`, in order, once READY. -/
structure SendsBytes (i : Instr) (s : State) (bs : List Byte) : Prop where
  notInit : i ≠ .init
  actions : readyActions i s = sendAll bs

section
variable {i : Instr} {s : State} {b : Byte} {bs : List Byte} {k : Nat} {r : List Turn}

theorem SendsBytes.exec_notReady (h : SendsBytes i s bs) (hr : s.ready = false) :
    exec i s = .next (s.refusedWith 3#4) :=
  Machine.exec_notReady i h.notInit s hr

theorem SendsBytes.exec_ready (h : SendsBytes i s bs) (hr : s.ready = true) :
    exec i s = .next (runActions (sendAll bs ++ []) s) := by
  rw [Machine.exec_ready i h.notInit s hr, h.actions, List.append_nil]

/-- With every byte answered ACK the command completes. -/
theorem SendsBytes.exec_acked (h : SendsBytes i s bs) (hr : s.ready = true) (ht : s.turns = acks bs.length ++ r) :
    exec i s = .next (s.done (carried s.cfg (cmdPayloads s.cfg bs)) r) := by
  rw [← List.length_map (cmdPayload s.cfg)] at ht
  rw [h.exec_ready hr, runActions_sends_acks _ _ s _ r (map_payload_sendAll s bs) ht, runActions, complete_sent]

theorem cmdPayloads_getElem? (c : Config) (hb : bs[k]? = some b) :
    (cmdPayloads c bs)[k]? = some (cmdPayload c b) := by
  rw [cmdPayloads, List.getElem?_map, hb, Option.map_some]

/-- At the first byte answered FAIL the command ends with TRANSPORT. -/
theorem SendsBytes.exec_failed (h : SendsBytes i s bs) (hb : bs[k]? = some b) (hr : s.ready = true)
    (ht : s.turns = acks k ++ .answer .fail :: r) :
    exec i s =
      .next (s.failed (carried s.cfg ((cmdPayloads s.cfg bs).take k) ++ [failedTx s.cfg (cmdPayload s.cfg b)]) r) := by
  rw [h.exec_ready hr,
    runActions_sends_fail _ _ s _ k _ r (map_payload_sendAll s bs) (cmdPayloads_getElem? s.cfg hb) ht]

/-- At the first byte with no answer the command waits, with the later bytes left. -/
theorem SendsBytes.exec_waits (h : SendsBytes i s bs) (hb : bs[k]? = some b) (hr : s.ready = true)
    (ht : s.turns = acks k ++ r) (hnone : noAnswerNext r) :
    exec i s = .next ((s.sent (carried s.cfg ((cmdPayloads s.cfg bs).take k)) r).issue (cmdPayload s.cfg b)
      ((sendAll bs).drop (k + 1))) := by
  rw [h.exec_ready hr,
    runActions_sends_wait _ _ s _ k _ r (map_payload_sendAll s bs) (cmdPayloads_getElem? s.cfg hb) ht hnone,
    List.append_nil]

/-- With no answer at all the command waits on its first byte. -/
theorem SendsBytes.exec_waits_first (h : SendsBytes i s (b :: bs)) (hr : s.ready = true)
    (hnone : noAnswerNext s.turns) : exec i s = .next (s.issue (cmdPayload s.cfg b) (sendAll bs)) := by
  rw [h.exec_waits (k := 0) rfl hr rfl hnone, List.take_zero, carried, List.map_nil, sent_nil]
  rfl

end

/-! ## CONTRAST (R79) -/

theorem sendsBytes_contrast (s : State) : SendsBytes .contrast s [s.cfg.ctrl.setContrast, s.level] := ⟨nofun, rfl⟩

/-- Settles O31: CONTRAST sends two bytes, and each of them is answered ACK or FAIL or waits. -/
theorem contrastSemantics : Obligations.ContrastSemantics := by
  intro s rest
  have h := sendsBytes_contrast s
  exact ⟨rfl, rfl, rfl, h.exec_notReady, h.exec_acked, h.exec_failed (k := 1) rfl, h.exec_failed (k := 0) rfl,
    h.exec_waits_first, h.exec_waits (k := 1) rfl⟩

/-! ## INVERT (R80) -/

theorem flag_eq_ite (s : State) : s.flag = if s.larg2.getLsbD 0 then 1#8 else 0#8 := by
  rw [← BitVec.toNat_inj, flag_toNat]
  split
  next hbit => exact (extIn_iff s).mp hbit
  next hbit => exact Nat.mod_two_ne_one.mp (mt (extIn_iff s).mpr hbit)

theorem sendsBytes_invert (s : State) : SendsBytes .invert s [s.cfg.ctrl.normInv ||| s.flag] := ⟨nofun, rfl⟩

/-- Settles O32: the one byte of INVERT, with FLAG as bit 0 of LARG2. -/
theorem invertSemantics : Obligations.InvertSemantics := by
  intro s rest
  have h := sendsBytes_invert s
  rw [flag_eq_ite] at h
  exact ⟨rfl, rfl, rfl, h.exec_notReady, h.exec_acked, h.exec_failed (k := 0) rfl, h.exec_waits_first⟩

/-! ## POWER_ON and POWER_OFF (R81, R82) -/

theorem sendsBytes_powerOn (s : State) : SendsBytes .powerOn s [s.cfg.ctrl.dispOn] := ⟨nofun, rfl⟩

theorem sendsBytes_powerOff (s : State) : SendsBytes .powerOff s [s.cfg.ctrl.dispOff] := ⟨nofun, rfl⟩

/-- Settles O33: the one byte of each of the two commands. -/
theorem powerCommandSemantics : Obligations.PowerCommandSemantics := by
  intro s rest
  have hon := sendsBytes_powerOn s
  have hoff := sendsBytes_powerOff s
  exact ⟨rfl, rfl, rfl, rfl, rfl, rfl,
    fun hr => ⟨hon.exec_notReady hr, hoff.exec_notReady hr⟩,
    fun hr ht => ⟨hon.exec_acked hr ht, hoff.exec_acked hr ht⟩,
    fun hr ht => ⟨hon.exec_failed (k := 0) rfl hr ht, hoff.exec_failed (k := 0) rfl hr ht⟩,
    fun hr hnone => ⟨hon.exec_waits_first hr hnone, hoff.exec_waits_first hr hnone⟩⟩

/-! ## What the pass-throughs leave unchanged (R83) -/

/-- Beyond what no action changes there are READY, the framebuffer, the STATUS result, the progress point and the
port. -/
theorem EngineKeeps.eq_update {s t : State} (h : EngineKeeps s t) (hready : t.ready = s.ready) (hfb : t.fb = s.fb) :
    t = { s with busy := t.busy, err := t.err, errcode := t.errcode, lastfail := t.lastfail, todo := t.todo,
                 pending := t.pending, bus := t.bus, turns := t.turns } := by
  rw [← hready, ← hfb, ← h.cfg, ← h.w, ← h.h, ← h.ext, ← h.arg0, ← h.arg1, ← h.arg2, ← h.lcmd, ← h.lcmdHigh0,
    ← h.larg0, ← h.larg1, ← h.larg2, ← h.held, ← h.fbEpoch, ← h.hostProg, ← h.readData]

/-- A command that is not INIT keeps READY and everything `EngineKeeps` names, whatever the transport answers. -/
theorem exec_keeps {i : Instr} (hi : i ≠ .init) {s t : State} (h : exec i s = .next t) :
    EngineKeeps s t ∧ t.ready = s.ready := by
  cases hr : s.ready with
  | false =>
    rw [exec_notReady i hi s hr] at h
    cases h
    exact ⟨(EngineAct.raise s .notReady).keeps, hr⟩
  | true =>
    rw [exec_ready i hi s hr] at h
    cases h
    have hacts := runActions_acts (readyActions i s) s
    exact ⟨hacts.keeps, hacts.ready hr⟩

theorem exec_fb_of_not_writes {i : Instr} (hi : writesFramebuffer i = false) {s t : State} (h : exec i s = .next t) :
    t.fb = s.fb := by
  by_contra hne
  exact absurd (hi.symm.trans (exec_fb h hne)) Bool.false_ne_true

/-- Settles O34: none of the four is INIT, and none writes the framebuffer. -/
theorem passThroughsChangeNoBlockState : Obligations.PassThroughsChangeNoBlockState := by
  intro i s t hi hexec
  have hinit : i ≠ .init ∧ writesFramebuffer i = false := by
    obtain rfl | rfl | rfl | rfl := hi <;> exact ⟨nofun, rfl⟩
  obtain ⟨hnotInit, hnoFb⟩ := hinit
  obtain ⟨hkeeps, hready⟩ := exec_keeps hnotInit hexec
  exact hkeeps.eq_update hready (exec_fb_of_not_writes hnoFb hexec)

end Sys2Proof.Machine
end

section
/-!
PROOFS. The errors of a command (60_exceptions.md R85 to R88, R90): the outcomes of a command that no check refuses, and
the first error that applies; the hang of an unanswered transaction (R95); the step of an accepted command (R88).
-/

namespace Sys2Proof.Machine

/-! ## The outcomes of a command that no check refuses (R86, R87, R90) -/

/-- What STATUS shows in `t` of a command that has run from `s`: it waits with a transaction outstanding, it has
completed, or it has ended with TRANSPORT. -/
def CommandOutcome (s t : State) : Prop :=
  (t.busy = true ∧ t.pending ≠ none ∧ t.err = s.err ∧ t.errcode = s.errcode ∧ t.lastfail = s.lastfail) ∨
  (t.busy = false ∧ t.err = s.err ∧ t.errcode = s.errcode ∧ t.lastfail = false) ∨
  (t.busy = false ∧ t.err = true ∧ t.errcode = 1#4 ∧ t.lastfail = true)

/-- A transaction with the actions `as` after it: an ACK leaves the outcome to them, a FAIL ends the command, and
without an answer the command waits. -/
theorem transmit_outcome {as : List Action} (ih : ∀ s : State, s.busy = true → CommandOutcome s (runActions as s))
    {s : State} (hb : s.busy = true) (payload : List Byte) :
    CommandOutcome s (transmit s payload as (runActions as)) := by
  obtain ⟨r, -, h⟩ | ⟨r, -, h⟩ | ⟨-, h⟩ := transmit_cases s payload as (runActions as)
  · rw [h]; exact ih (afterAnswer s payload as .ack r) hb
  · rw [h]; exact .inr (.inr ⟨rfl, rfl, rfl, rfl⟩)
  · rw [h]; exact .inl ⟨hb, nofun, rfl, rfl, rfl⟩

theorem runActions_outcome (as : List Action) (s : State) (hb : s.busy = true) :
    CommandOutcome s (runActions as s) := by
  induction as generalizing s with
  | nil => exact .inr (.inl ⟨rfl, rfl, rfl, rfl⟩)
  | cons a as ih =>
    cases a with
    | zeroFill => exact ih s.zeroFill hb
    | setBit p v =>
      have hrest := ih (s.fbSetBit p v) ((fbSetBit_busy s p v).trans hb)
      rwa [CommandOutcome, fbSetBit_err, fbSetBit_errcode, fbSetBit_lastfail] at hrest
    | sendCmd b => exact transmit_outcome ih hb _
    | sendData => exact transmit_outcome ih hb _
    | ready => exact .inr (.inl ⟨rfl, rfl, rfl, rfl⟩)

/-- A command that passes the checks of R88. -/
theorem exec_outcome {i : Instr} {s : State} (hb : s.busy = true) (hready : i ≠ .init → s.ready = true)
    (hinit : i = .init → s.ready = false ∧ geometryLegal s.cfg s.width.toNat s.height.toNat = true) :
    ∃ t, exec i s = .next t ∧ CommandOutcome s t := by
  by_cases hi : i = .init
  · subst hi
    obtain ⟨hr, hg⟩ := hinit rfl
    exact ⟨_, exec_init_legal s hr hg, runActions_outcome _ (initBegun s) hb⟩
  · exact ⟨_, exec_ready i hi s (hready hi), runActions_outcome _ s hb⟩

/-! ## The first error that applies (R88) -/

theorem engineTurn_illegal {s : State} (hb : s.busy = true) (htodo : s.todo = none) (hp : s.pending = none)
    {e : IllegalCmd} (hd : decodeLatched s.lcmdHigh0 s.lcmd = .error e) :
    engineTurn s = .next (s.refusedWith 2#4) :=
  calc engineTurn s = step { s with turns := .engine :: s.turns } := rfl
    _ = .next (s.refusedWith 2#4) := step_engine_illegal hb htodo hp hd s.turns

/-- Settles O17: the decoder refuses first, then the command's own checks, in the order of R88; what is left is a run of
its actions, which FAIL alone can end with an error. -/
theorem errorPriority : Obligations.ErrorPriority := by
  intro s hb htodo hp
  refine ⟨fun ⟨e, hd⟩ => engineTurn_illegal hb htodo hp hd, fun i hacc hi hr => ?_, fun hacc hr => ?_,
    fun hacc hr hg => ?_, fun i hacc hready hinit => ?_⟩
  · rw [engineTurn_accepted s i hacc, exec_notReady i hi s hr]; rfl
  · rw [engineTurn_accepted s .init hacc, exec_init_alreadyReady hr]
  · rw [engineTurn_accepted s .init hacc, exec_init_badGeometry hr hg]
  · rw [engineTurn_accepted s i hacc]
    exact exec_outcome hb hready hinit

/-! ## The hang of an unanswered transaction (R95) -/

/-- In `t` the command of `s` still waits: BUSY is 1, the outstanding transaction, the progress point, the port's history
and the framebuffer are as they were, and a held access of the host is still held. -/
def StillWaits (s t : State) : Prop :=
  t.busy = true ∧ t.pending = s.pending ∧ t.todo = s.todo ∧ t.bus = s.bus ∧ t.fb = s.fb ∧
  (s.held = true → (∃ op ops, s.hostProg = op :: ops ∧ op.holdable s.cfg = true) →
    t.held = true ∧ t.hostProg = s.hostProg)

/-- CMD is the one register whose write touches the command, and it is held while BUSY = 1. -/
theorem regStore_keeps_command {g : HostReg} (hg : g.heldWrite = false) (s : State) (v : Word) :
    (s.regStore g v).busy = s.busy ∧ (s.regStore g v).pending = s.pending ∧ (s.regStore g v).todo = s.todo := by
  cases g with
  | cmd => cases hg
  | status => cases hg
  | _ => exact ⟨rfl, rfl, rfl⟩

theorem hostPerform_keeps_command {s : State} {op : HostOp} (hop : op.holdable s.cfg = false) :
    (s.hostPerform op).busy = s.busy ∧ (s.hostPerform op).pending = s.pending ∧
      (s.hostPerform op).todo = s.todo := by
  cases op with
  | wr k v => exact regStore_keeps_command hop s (portData s.cfg v)
  | rd k => exact ⟨rfl, rfl, rfl⟩
  | wait =>
    rw [State.hostPerform]
    obtain hw | hw := hostWaits_cases s (s.hostValue 1#9) <;> rw [hw] <;> exact ⟨rfl, rfl, rfl⟩

/-- While BUSY = 1 the host's access is held, or is one that does not touch the command. -/
theorem hostTurn_stillWaits {s : State} (hb : s.busy = true) : StillWaits s (hostTurn s) := by
  obtain ⟨hprog, h⟩ | ⟨op, ops, hprog, -, hop, h⟩ | ⟨op, ops, hprog, hop, h⟩ := hostTurn_cases s
  · rw [h]; exact ⟨hb, rfl, rfl, rfl, rfl, fun hheld _ => ⟨hheld, rfl⟩⟩
  · rw [h]; exact ⟨hb, rfl, rfl, rfl, rfl, fun _ _ => ⟨rfl, rfl⟩⟩
  · have hfree : op.holdable s.cfg = false := hop.resolve_left (by simp [hb])
    obtain ⟨hbusy, hpending, htodo⟩ := hostPerform_keeps_command hfree
    rw [← h] at hbusy hpending htodo
    refine ⟨hbusy.trans hb, hpending, htodo, hostTurn_bus s, hostTurn_fb s, ?_⟩
    rintro - ⟨op', ops', hprog', hop'⟩
    cases hprog.symm.trans hprog'
    exact absurd (hfree.symm.trans hop') Bool.false_ne_true

/-- With a transaction outstanding the engine does nothing, so a step that is neither an answer nor a reset takes its turn
from the order of moves, and is the host's at most. -/
theorem step_unanswered_cases {s : State} (hp : s.pending ≠ none) (hanswer : ∀ a r, s.turns ≠ .answer a :: r)
    (hreset : ∀ r, s.turns ≠ .reset :: r) :
    ∃ r, step s = .next { s with turns := r } ∨ step s = .next (hostTurn { s with turns := r }) := by
  obtain ⟨q, r, hturns, h⟩ | ⟨-, -, hnone, -⟩ | ⟨hturns, -, h⟩ := step_cases s
  · refine ⟨r, ?_⟩
    rw [h]
    cases q with
    | host => exact .inr rfl
    | engine => exact .inl (engineTurn_of_idle (s := { s with turns := r }) (.inr hp))
    | micro => exact .inl (congrArg _ (microTurn_of_idle (s := { s with turns := r }) (.inr hp)))
    | answer a => exact absurd hturns (hanswer a r)
    | lateAnswer a => exact .inl rfl
    | reset => exact absurd hturns (hreset r)
  · exact absurd hnone hp
  · exact ⟨s.turns, .inr h⟩

/-- Settles O19: no step but an answer or a reset moves the command on, and a reset leaves BUSY = 0. -/
theorem unansweredTransactionHangs : Obligations.UnansweredTransactionHangs := by
  intro s hb hp
  refine ⟨fun hanswer hreset => ?_, fun r hturns => ⟨_, step_turn s .reset r hturns, rfl⟩⟩
  obtain ⟨r, h | h⟩ := step_unanswered_cases hp hanswer hreset
  · exact ⟨_, h, hb, rfl, rfl, rfl, rfl, fun hheld _ => ⟨hheld, rfl⟩⟩
  · exact ⟨_, h, hostTurn_stillWaits (s := { s with turns := r }) hb⟩

/-! ## The step of an accepted command (R88) -/

theorem tableWord_of_decodeTableWord {w : Nat} {i : Instr} (h : decodeTableWord 32 w = some i) :
    tableWord 32 w = encode i := by
  unfold decodeTableWord at h
  split at h
  next j hdecode =>
    cases h
    exact (decode_eq_ok_iff _ _).mp hdecode
  next => cases h

/-- Where no turn is named, the engine moves. -/
theorem step_unnamed_accepted {s : State} {i : Instr} (hacc : s.Accepted i) (hturns : s.turns = []) :
    step s = exec i s := by
  have ⟨hb, _, hp, _⟩ := hacc
  obtain ⟨q, r, hnamed, -⟩ | ⟨-, -, -, h⟩ | ⟨-, hidle, -⟩ := step_cases s
  · cases hturns.symm.trans hnamed
  · rw [h, engineTurn_accepted s i hacc]
  · simp [hb, hp] at hidle

/-- Settles O4: the engine's turn runs an accepted command, and a table word is accepted as the command's encoding. -/
theorem stepRunsAcceptedCommand : Obligations.StepRunsAcceptedCommand := by
  intro s i
  refine ⟨fun hacc => ⟨fun r hturns => ?_, step_unnamed_accepted hacc⟩, fun w hw => ?_⟩
  · rw [step_turn s .engine r hturns]
    exact engineTurn_accepted { s with turns := r } i hacc
  · rw [State.withFetchWord, tableWord_of_decodeTableWord hw]
    exact step_engine_accepted (accepted_accept s i) s.turns

end Sys2Proof.Machine
end

section
/-!
PROOFS. Reset, holds and the end of commands (70_reset_and_hazards.md): what a reset abandons (R97), what is hidden
before a successful INIT (R98), the accesses held while BUSY = 1 (R101, R102), the argument registers while a command runs
(R103), and the transactions of a command (R105, R106).
-/

namespace Sys2Proof.Machine

/-! ## A reset during a command (R97) -/

theorem dropHeld_turns (s : State) : s.dropHeld.turns = s.turns := by
  unfold State.dropHeld
  split
  · split <;> rfl
  · rfl

theorem dropHeld_of_notHeld {s : State} (h : s.held = false) : s.dropHeld = s := if_neg (Bool.eq_false_iff.mp h)

theorem dropHeld_of_write {s : State} {k : WordIndex} {v : Word} {ops : List HostOp} (h : s.held = true)
    (hprog : s.hostProg = .wr k v :: ops) : s.dropHeld = s.hostAdvance := by
  rw [State.dropHeld, if_pos h, hprog]

theorem dropHeld_of_read {s : State} {k : WordIndex} {ops : List HostOp} (h : s.held = true)
    (hprog : s.hostProg = .rd k :: ops) : s.dropHeld = (s.hostReads 0#32).hostAdvance := by
  rw [State.dropHeld, if_pos h, hprog]

section
variable (s : State) {x : Transaction} {k : WordIndex} {v : Word} {ops : List HostOp}

theorem resetInput_turns : s.resetInput.turns = s.turns := (dropHeld_turns _).trans (record_turns s .abandoned)

/-- The outstanding transaction is abandoned. -/
theorem resetInput_bus_of_pending (hx : s.pending = some x) : s.resetInput.bus = s.bus ++ [⟨x, .abandoned⟩] :=
  (dropHeld_bus _).trans (by rw [record_of_pending hx])

theorem resetInput_bus_of_none (hnone : s.pending = none) : s.resetInput.bus = s.bus :=
  (dropHeld_bus _).trans (by rw [State.record, hnone])

/-- An access that is not held is still to be made after the reset. -/
theorem resetInput_of_notHeld (h : s.held = false) :
    s.resetInput.hostProg = s.hostProg ∧ s.resetInput.readData = s.readData := by
  rw [State.resetInput, dropHeld_of_notHeld ((record_held s _).trans h)]
  exact ⟨record_hostProg s _, record_readData s _⟩

/-- A held write is discarded. -/
theorem resetInput_of_heldWrite (h : s.held = true) (hprog : s.hostProg = .wr k v :: ops) :
    s.resetInput.hostProg = ops ∧ s.resetInput.readData = s.readData := by
  have hprog' : (s.record .abandoned).hostProg = .wr k v :: ops := (record_hostProg s _).trans hprog
  rw [State.resetInput, dropHeld_of_write ((record_held s _).trans h) hprog']
  exact ⟨congrArg List.tail hprog', record_readData s _⟩

/-- A held read returns 0. -/
theorem resetInput_of_heldRead (h : s.held = true) (hprog : s.hostProg = .rd k :: ops) :
    s.resetInput.hostProg = ops ∧ s.resetInput.readData = 0#32 := by
  have hprog' : (s.record .abandoned).hostProg = .rd k :: ops := (record_hostProg s _).trans hprog
  rw [State.resetInput, dropHeld_of_read ((record_held s _).trans h) hprog']
  exact ⟨congrArg List.tail hprog', rfl⟩

end

/-- Settles O41: the reset records the outstanding transaction, drops the held access and ends in `State.toReset`. -/
theorem resetEndsTheCommandAtOnce : Obligations.ResetEndsTheCommandAtOnce := by
  intro s r
  exact ⟨fun hturns => ⟨State.resetInput (s.withTurns r), step_turn s .reset r hturns, toReset_atReset _, rfl,
    resetInput_turns _, fun _ => resetInput_bus_of_pending (s.withTurns r),
    resetInput_bus_of_none (s.withTurns r), resetInput_of_notHeld (s.withTurns r),
    fun _ _ _ => resetInput_of_heldWrite (s.withTurns r), fun _ _ => resetInput_of_heldRead (s.withTurns r)⟩,
    fun a hturns => step_turn s (.lateAnswer a) r hturns⟩

/-! ## Before a successful INIT (R98) -/

/-- Settles O42: what the host reads is masked by READY, and every command but INIT checks it. -/
theorem nothingIsSeenBeforeInit : Obligations.NothingIsSeenBeforeInit := by
  intro s hr
  obtain ⟨-, hready, -, hext, -⟩ := status_fields s
  refine ⟨hready.trans hr, ?_, geom_of_notReady hr, winWord_of_notReady hr, fun i hi => exec_notReady i hi s hr⟩
  rw [hext, hr, Bool.false_and]

/-! ## Accesses while BUSY = 1 (R101, R102) -/

/-- Settles O5: a CMD write is held, and when it takes effect it is an acceptance. -/
theorem commandWriteIsHeldThenAccepted : Obligations.CommandWriteIsHeldThenAccepted := by
  intro s v ops r hport hprog hturns
  exact ⟨step_host_wr_held hport hturns rfl hprog, fun hb => step_host_wr_taken hport hturns (.inl hb) hprog⟩

/-- With BUSY = 0 the presented access takes effect, held before or not. -/
theorem step_host_of_idle {s : State} {r : List Turn} {op : HostOp} {ops : List HostOp} (hb : s.busy = false)
    (hprog : s.hostProg = op :: ops) (hturns : s.turns = .host :: r) :
    step s = .next { s.hostPerform op with turns := r } := by
  rw [step_host s r op ops hturns hprog, hb, Bool.false_and, if_neg Bool.false_ne_true]

/-- Settles O12: the accesses of each row of the rule's table are held or not by what the offset names. -/
theorem holdsWhileBusy : Obligations.HoldsWhileBusy := by
  intro s op ops r v off hport hb hprog hturns hhi hal
  have written {k : WordIndex} (hk : (hostReg k).heldWrite = false) (hop : op = .wr k v) :
      step s = .next { s.regStore (hostReg k) v with hostProg := ops, held := false, turns := r } :=
    step_host_wr_taken hport hturns (.inr hk) (hop ▸ hprog)
  have read {k : WordIndex} (hk : (hostReg k).heldRead = false) (hop : op = .rd k) :
      step s = .next { s with readData := s.regValue (hostReg k), hostProg := ops, held := false, turns := r } :=
    step_host_rd_taken hport hturns (.inr hk) (hop ▸ hprog)
  refine ⟨?_, read rfl, written rfl, written rfl, written rfl, read rfl, read rfl, read rfl, ?_, ?_,
    fun t _ hidle hp ht => step_host_of_idle hidle hp ht⟩
  · rintro (rfl | rfl | rfl | ⟨hlo, rfl⟩)
    · exact step_host_wr_held hport hturns rfl hprog hb
    · exact step_host_wr_held hport hturns rfl hprog hb
    · exact step_host_rd_held hport hturns rfl hprog hb
    · exact step_host_rd_held hport hturns (by rw [hostReg_fbwin off hal hlo hhi]; rfl) hprog hb
  · rintro (hop | ⟨hlo, hend, hop⟩)
    · exact read rfl hop
    · have hreg := hostReg_unmapped off hal hlo hend
      rw [read (by rw [hreg]; rfl) hop, hreg]
      rfl
  · rintro ⟨hlo, hop⟩
    obtain ⟨hheld, hstore⟩ := write_ignored_of_readOnly hlo hhi hal
    rw [written hheld hop, hstore]

/-! ## The argument registers and the command that runs (R103) -/

section
variable (s : State) (a0 a1 a2 : Word)

@[simp] theorem withArgs_lcmd : (s.withArgs a0 a1 a2).lcmd = s.lcmd := rfl
@[simp] theorem withArgs_lcmdHigh0 : (s.withArgs a0 a1 a2).lcmdHigh0 = s.lcmdHigh0 := rfl
@[simp] theorem withArgs_busy : (s.withArgs a0 a1 a2).busy = s.busy := rfl
@[simp] theorem withArgs_todo : (s.withArgs a0 a1 a2).todo = s.todo := rfl
@[simp] theorem withArgs_pending : (s.withArgs a0 a1 a2).pending = s.pending := rfl
@[simp] theorem withArgs_turns : (s.withArgs a0 a1 a2).turns = s.turns := rfl

theorem fbSetBit_withArgs (p : Point) (v : Bool) :
    (s.withArgs a0 a1 a2).fbSetBit p v = (s.fbSetBit p v).withArgs a0 a1 a2 := by
  rw [State.fbSetBit, State.fbSetBit, apply_ite (State.withArgs · a0 a1 a2)]
  rfl

theorem transmit_withArgs (p : List Byte) (rest : List Action) {k : State → State}
    (hk : ∀ u : State, k (u.withArgs a0 a1 a2) = (k u).withArgs a0 a1 a2) :
    transmit (s.withArgs a0 a1 a2) p rest k = (transmit s p rest k).withArgs a0 a1 a2 := by
  unfold transmit
  rw [withArgs_turns]
  split
  next r _ => exact hk (afterAnswer s p rest .ack r)
  · rfl
  · rfl

theorem runActions_withArgs (as : List Action) :
    runActions as (s.withArgs a0 a1 a2) = (runActions as s).withArgs a0 a1 a2 := by
  induction as generalizing s with
  | nil => rfl
  | cons a as ih =>
    cases a with
    | zeroFill => exact ih s.zeroFill
    | setBit p v => rw [runActions, fbSetBit_withArgs, ih, runActions]
    | sendCmd b => exact transmit_withArgs s a0 a1 a2 _ as ih
    | sendData => exact transmit_withArgs s a0 a1 a2 _ as ih
    | ready => rfl

theorem engineRun_withArgs : engineRun (s.withArgs a0 a1 a2) = (engineRun s).withArgs a0 a1 a2 := by
  unfold engineRun
  rw [withArgs_todo]
  split
  · exact runActions_withArgs s a0 a1 a2 _
  · rfl

theorem microAction_withArgs (as : List Action) :
    microAction as (s.withArgs a0 a1 a2) = (microAction as s).withArgs a0 a1 a2 := by
  cases as with
  | nil => rfl
  | cons a rest =>
    cases a with
    | setBit p v => rw [microAction, fbSetBit_withArgs]; rfl
    | _ => rfl

theorem startInit_withArgs : startInit (s.withArgs a0 a1 a2) = (startInit s).withArgs a0 a1 a2 := by
  rw [startInit, startInit, apply_ite (State.withArgs · a0 a1 a2), apply_ite (State.withArgs · a0 a1 a2)]
  rfl

theorem startCommand_withArgs (i : Instr) :
    startCommand i (s.withArgs a0 a1 a2) = (startCommand i s).withArgs a0 a1 a2 := by
  by_cases hi : i = .init
  · subst hi; exact startInit_withArgs s a0 a1 a2
  · cases hr : s.ready with
    | false => rw [startCommand_notReady i hi s hr, startCommand_notReady i hi (s.withArgs a0 a1 a2) hr]; rfl
    | true => rw [startCommand_ready i hi s hr, startCommand_ready i hi (s.withArgs a0 a1 a2) hr]; rfl

theorem exec_withArgs (i : Instr) : exec i (s.withArgs a0 a1 a2) = mapNext (·.withArgs a0 a1 a2) (exec i s) := by
  rw [exec_eq, exec_eq, startCommand_withArgs, engineRun_withArgs]
  rfl

theorem engineTurn_withArgs :
    engineTurn (s.withArgs a0 a1 a2) = mapNext (·.withArgs a0 a1 a2) (engineTurn s) := by
  unfold engineTurn
  rw [withArgs_busy, withArgs_pending, withArgs_todo, withArgs_lcmd, withArgs_lcmdHigh0]
  split
  · split
    · rw [engineRun_withArgs]; rfl
    · split
      · exact exec_withArgs s a0 a1 a2 _
      · rfl
  · rfl

theorem microTurn_withArgs : microTurn (s.withArgs a0 a1 a2) = (microTurn s).withArgs a0 a1 a2 := by
  unfold microTurn
  rw [withArgs_busy, withArgs_pending, withArgs_todo, withArgs_lcmd, withArgs_lcmdHigh0]
  split
  · split
    · exact microAction_withArgs s a0 a1 a2 _
    · split
      · exact startCommand_withArgs s a0 a1 a2 _
      · rfl
  · rfl

end

/-- Settles O15: no action, and no check before a command's first action, reads an argument register. -/
theorem argWritesNeverReachTheRunningCommand : Obligations.ArgWritesNeverReachTheRunningCommand := by
  intro i s as a0 a1 a2
  exact ⟨exec_withArgs s a0 a1 a2 i, engineTurn_withArgs s a0 a1 a2, microTurn_withArgs s a0 a1 a2,
    microAction_withArgs s a0 a1 a2 as⟩

/-! ## The transactions of a command (R105) -/

/-- The number of transactions of each command (70_reset_and_hazards.md R105). -/
def commandTxs : Instr → Nat
  | .init => 32
  | .clear => 0
  | .flush => 7
  | .setPixel => 0
  | .drawLine => 0
  | .contrast => 2
  | .invert => 1
  | .powerOn => 1
  | .powerOff => 1

/-- The payload bytes of the transactions of each command (70_reset_and_hazards.md R105, 30_encoding.md R51). -/
def commandTxBytes (s : State) : Instr → Nat
  | .init => 63 + s.height.toNat / 8 * s.width.toNat
  | .clear => 0
  | .flush => 13 + s.h.toNat / 8 * s.w.toNat
  | .setPixel => 0
  | .drawLine => 0
  | .contrast => 4
  | .invert => 2
  | .powerOn => 2
  | .powerOff => 2

theorem txCount_readyActions_eq {i : Instr} (hi : i ≠ .init) (s : State) :
    txCount (readyActions i s) = commandTxs i := by
  rw [txCount_readyActions]
  cases i with
  | init => exact absurd rfl hi
  | _ => rfl

theorem commandTxs_le (i : Instr) : commandTxs i ≤ 32 := by cases i <;> decide

theorem txBytes_setAll (n : Nat) (ps : List Point) (v : Bool) : txBytes n (setAll ps v) = 0 := by
  induction ps with
  | nil => rfl
  | cons p ps ih => exact ih

theorem txBytes_readyActions {i : Instr} (hi : i ≠ .init) (s : State) :
    txBytes s.frameBytes (readyActions i s) = commandTxBytes s i := by
  cases i with
  | init => exact absurd rfl hi
  | flush =>
    have hbody := txBytes_flushBody s.frameBytes s.cfg.ctrl s.w.toNat s.h.toNat []
    rwa [List.append_nil] at hbody
  | drawLine => exact txBytes_setAll _ _ _
  | _ => rfl

/-- A command that completes has carried its transactions, each answered ACK. -/
theorem exec_counts {i : Instr} {s t : State} (hb : s.busy = true) (hexec : exec i s = .next t)
    (hdone : t.busy = false) (hok : t.lastfail = false) :
    ∃ ended, t.bus = s.bus ++ ended ∧ s.turns = acks (commandTxs i) ++ t.turns ∧ ended.length = commandTxs i ∧
      (ended.map (·.tx.payload.length)).sum = commandTxBytes s i := by
  rw [exec_eq] at hexec
  cases hexec
  obtain ⟨c, hstart⟩ | ⟨rfl, -, -, hstart⟩ | ⟨hi, -, hstart⟩ := startCommand_cases i s
  · rw [hstart, engineRun_raise, raise_lastfail] at hok
    cases hok
  · rw [hstart, engineRun_plan] at hdone hok ⊢
    have hcounts := runActions_counts _ (initBegun s) hb hdone hok
    rwa [txCount_initActions, txBytes_initActions] at hcounts
  · rw [hstart, engineRun_plan] at hdone hok ⊢
    have hcounts := runActions_counts _ s hb hdone hok
    rwa [txCount_readyActions_eq hi, txBytes_readyActions hi] at hcounts

theorem acks_append_inj {m n : Nat} {r : List Turn} (h : acks m ++ r = acks n ++ r) : m = n :=
  List.replicate_left_injective _ (List.append_cancel_right h)

/-- Settles O37: `exec_counts`, command by command. -/
theorem transactionAndByteCounts : Obligations.TransactionAndByteCounts := by
  intro i s t k rest hb hturns hexec hdone hok hrest
  obtain ⟨ended, hbus, htaken, hlen, hbytes⟩ := exec_counts hb hexec hdone hok
  obtain rfl : k = commandTxs i := acks_append_inj (by rw [← hturns, htaken, hrest])
  refine ⟨ended, hbus, hlen, ?_, ?_, ?_, ?_, ?_⟩
  · rintro rfl; exact ⟨rfl, hbytes⟩
  · rintro rfl; exact ⟨rfl, hbytes⟩
  · rintro rfl; exact ⟨rfl, hbytes⟩
  · rintro (rfl | rfl | rfl) <;> exact ⟨rfl, hbytes⟩
  · rintro (rfl | rfl | rfl) <;> rfl

/-! ## Every command ends (R105, R106) -/

/-- Settles O52: a command refused has ended, and any other ends once each of its transactions, 32 at most, is
answered. -/
theorem everyCommandEndsOnceAnswered : Obligations.EveryCommandEndsOnceAnswered := by
  intro i s answers rest hlen
  refine ⟨_, exec_eq i _, ?_⟩
  obtain ⟨c, hstart⟩ | ⟨rfl, -, -, hstart⟩ | ⟨hi, -, hstart⟩ :=
    startCommand_cases i { s with turns := answers.map .answer ++ rest }
  · rw [hstart, engineRun_raise]
    exact ⟨rfl, rfl, rfl⟩
  · rw [hstart, engineRun_plan]
    refine runActions_ends _ _ answers rest rfl ?_
    rwa [txCount_initActions]
  · rw [hstart, engineRun_plan]
    refine runActions_ends _ _ answers rest rfl ?_
    rw [txCount_readyActions_eq hi]
    exact (commandTxs_le i).trans hlen

end Sys2Proof.Machine
end
